-- ==== Sys2Proof/Word.lean ====
section
/-! DEFINITION. The two word types of the block: the byte of a framebuffer cell and the 32-bit word of the command
port, the DATA latch and the two counters (00_scope.md R16: every value is unsigned, bit 0 is the least significant). -/

namespace Sys2Proof

/-- A `u8` of 00_scope.md R16: one framebuffer cell, one colour channel, one accumulator. -/
abbrev Byte := BitVec 8

/-- A `u32` of 00_scope.md R16: a command word, the DATA latch, a counter sample, a response value. -/
abbrev Word := BitVec 32

end Sys2Proof
end

