-- ==== Sys2Proof/Config.lean ====
section
/-! DEFINITION. What is fixed when the block is built: the parameter table of 00_scope.md R13, the constants the spec
fixes, the reference parameters called T (R21), and the FREE VALUES: constants without a body, of which no proof can
know a value (the two input counters, 93_implementation_defined.md U7).

The spec leaves the parameters open and asks a model to take them "as an argument". The model's argument is the field
`cfg` of `Machine.State`, which no step writes; so a statement about every state is a statement about every
choice of parameters (notes/assumptions/1.md). -/

namespace Sys2Proof

/-- A luminosity multiplier `num / den` (00_scope.md R13, row `ADJ[c]`). -/
structure Ratio where
  num : Nat
  den : Nat
deriving DecidableEq, Repr

/-- The parameter table of 00_scope.md R13. `off` lists the bit offsets `OFF[0]`, `OFF[1]`, … in column order. -/
structure Params where
  /-- `WIDTH`: pixels per scan line. -/
  width : Nat
  /-- `HEIGHT`: rows. -/
  height : Nat
  /-- `OFF[x]`: the bit of the DATA word that carries pixel column x. -/
  off : List (BitVec 5)
  /-- `DWELL_CLOCK`: minimum cycles in ClockPhase. -/
  dwellClock : Nat
  /-- `DWELL_DATA`: minimum cycles in DataPhase. -/
  dwellData : Nat
  /-- `F_CPU`: frequency of the cycle counter, used only by `delay_ns`. -/
  fCpu : Nat
  /-- `RTC_HZ`: frequency of the real-time counter, used only by `rate_mask`. -/
  rtcHz : Nat
  /-- `RTC_MASK_INIT`: RTC_MASK after reset. -/
  rtcMaskInit : Word
  /-- `ADJ[Red]`. -/
  adjRed : Ratio
  /-- `ADJ[Green]`. -/
  adjGreen : Ratio
  /-- `ADJ[Blue]`. -/
  adjBlue : Ratio
deriving DecidableEq, Repr

/-- The ratio is defined and keeps every channel within 8 bits (40_color_model.md R130: "yields three 8-bit
channels"; DESIGN CHOICE, notes/assumptions/12.md). -/
abbrev Ratio.wf (r : Ratio) : Prop := 0 < r.den ∧ 255 * r.num / r.den ≤ 255

/-- The constraints of the parameter table (00_scope.md R13, R14). Choosing parameters that break them is refused when
the model is instantiated (93_implementation_defined.md U10), see `Machine.State.instantiate`. -/
abbrev Params.wf (p : Params) : Prop :=
  (1 ≤ p.width ∧ p.width ≤ 32) ∧ (1 ≤ p.height ∧ p.height ≤ 4096) ∧
  (p.off.length = p.width ∧ p.off.Nodup) ∧
  (p.dwellClock < 2 ^ 31 ∧ p.dwellData < 2 ^ 31) ∧
  p.rtcHz = 2 ^ p.rtcHz.log2 ∧
  (p.adjRed.wf ∧ p.adjGreen.wf ∧ p.adjBlue.wf)

/-- The parameters called T (00_scope.md R21): the spec's own choice for its test vectors, which "carries no authority
about the real panel". They are the parameters of `Machine.State.reset` (DESIGN CHOICE, notes/assumptions/1.md). -/
def Params.reference : Params where
  width := 4
  height := 2
  off := [0, 1, 2, 3]
  dwellClock := 14
  dwellData := 15
  fCpu := 600000000
  rtcHz := 32768
  rtcMaskInit := 0xFFFFFFF0#32
  adjRed := ⟨1, 1⟩
  adjGreen := ⟨29, 50⟩
  adjBlue := ⟨29, 70⟩

/-- FREE VALUE: the true cycle count T when the block comes out of reset (10_state.md R45; notes/assumptions/3.md). -/
opaque Config.cycAtReset : Nat

/-- FREE VALUE: the true tick count K when the block comes out of reset (10_state.md R46; notes/assumptions/3.md). -/
opaque Config.rtcAtReset : Nat

/-- FREE VALUE: by how much the true cycle count has grown when it is sampled for the n-th time that nothing listed
says (10_state.md R45: "Between two samples T may have grown by any amount"; notes/assumptions/2.md). -/
opaque Config.freeCycGrowth : Nat → Nat

/-- FREE VALUE: the same for the true tick count of the real-time counter (10_state.md R46; notes/assumptions/2.md).
The two are separate constants, for the spec relates the two counters by nothing. -/
opaque Config.freeRtcGrowth : Nat → Nat

end Sys2Proof
end

