-- ==== Sys2Proof/Syntax.lean ====
section
/-! DEFINITION. The commands of the block as syntax: one constructor for each row of spec/opcode_table.json, with its
operands at the widths of 30_encoding.md R101 to R107. (R3: the block is not a processor, and what the model calls an
instruction is a command of its port.) -/

namespace Sys2Proof

/-- A colour of three 8-bit channels (00_scope.md R19). -/
structure Color where
  r : Byte
  g : Byte
  b : Byte
deriving DecidableEq, Repr

/-- A pixel coordinate, an unsigned 12-bit field (30_encoding.md R104). -/
abbrev Coord := BitVec 12

/-- A bit offset 0..31 within the DATA word or a PULSE4 mask (30_encoding.md R107). -/
abbrev Offset := BitVec 5

/-- The array a PEEK reads (30_encoding.md R105: 0 = BACK, 1 = TGT, 2 = CUR). -/
inductive ArraySel where
  | back
  | tgt
  | cur
deriving DecidableEq, Repr

/-- The thirteen commands (30_encoding.md R108). -/
inductive Instr where
  /-- DRIVE_MID, the mid-render drive (44_screen_driver.md R207). -/
  | driveMid
  /-- DRIVE_POST, the post-render drive (44_screen_driver.md R208). -/
  | drivePost
  /-- FLIP (43_framebuffer.md R172). -/
  | flip
  /-- SET x, y, colour: unchecked, luminosity-adjusted (43_framebuffer.md R175). -/
  | set (x y : Coord) (c : Color)
  /-- SET_ADJ x, y, colour: unchecked, raw (43_framebuffer.md R174). -/
  | setAdj (x y : Coord) (c : Color)
  /-- TRY_SET x, y, colour: checked, luminosity-adjusted (43_framebuffer.md R178). -/
  | trySet (x y : Coord) (c : Color)
  /-- TRY_SET_ADJ x, y, colour: checked, raw (43_framebuffer.md R177). -/
  | trySetAdj (x y : Coord) (c : Color)
  /-- PULSE cur, tgt (42_pdm.md R151). -/
  | pulse (cur tgt : Byte)
  /-- PULSE4 cur4, tgt4, o0, o1, o2, o3 (42_pdm.md R153). -/
  | pulse4 (cur4 tgt4 : Word) (o0 o1 o2 o3 : Offset)
  /-- SET_MASK mask (44_screen_driver.md R209). -/
  | setMask (mask : Word)
  /-- DELAY n (41_delay.md R142). -/
  | delay (n : BitVec 24)
  /-- PEEK x, y, sel (43_framebuffer.md R179). -/
  | peek (x y : Coord) (sel : ArraySel)
  /-- ADJUST colour (40_color_model.md R131). -/
  | adjust (c : Color)
deriving DecidableEq, Repr

end Sys2Proof
end

