-- ==== Sys2Proof/Machine/Operands.lean ====
section
/-! DEFINITION. Operand forms: what the panel's parameters make of an operand. Coordinates and scan lines
(20_memory.md R70 to R72, 43_framebuffer.md R176), the luminosity adjustment (40_color_model.md R130), the byte lanes of
a packed word (20_memory.md R73), colours packed into a response (30_encoding.md R112), and the two helper functions of
the pseudo-commands (44_screen_driver.md R210, 41_delay.md R143). -/

namespace Sys2Proof

/-- `COLOR_COUNT`, fixed at 3 (00_scope.md R13). -/
def Params.colorCount : Nat := 3

/-- `SHIFT_COUNT = HEIGHT × COLOR_COUNT`, the scan lines in total (00_scope.md R13). -/
def Params.shiftCount (p : Params) : Nat := p.height * Params.colorCount

/-- The cells of one framebuffer array: SHIFT_COUNT lines of WIDTH bytes (20_memory.md R70). -/
def Params.cells (p : Params) : Nat := p.shiftCount * p.width

/-- `OFF[x]`, for x < WIDTH (00_scope.md R13). -/
def Params.offset (p : Params) (x : Nat) : BitVec 5 := p.off.getD x 0

namespace Machine

/-- `in_range(x, y)`: x < WIDTH and y < HEIGHT, unsigned (43_framebuffer.md R176). -/
def inRange (p : Params) (x y : Coord) : Bool :=
  decide (x.toNat < p.width) && decide (y.toNat < p.height)

/-- `line(y, c) = y × 3 + c`, with Red 0, Green 1, Blue 2 (20_memory.md R71). -/
def line (y c : Nat) : Nat := y * Params.colorCount + c

/-- The linear number of cell `[l][x]` of an array, `l × WIDTH + x` (20_memory.md R72). -/
def cellAddr (p : Params) (l x : Nat) : Nat := l * p.width + x

/-- One channel of `adjust`: `floor(v × num / den)` (40_color_model.md R130: the exact product, then a division rounded
toward zero). -/
def adjustChannel (r : Ratio) (v : Byte) : Byte := BitVec.ofNat 8 (v.toNat * r.num / r.den)

/-- The function `adjust` (40_color_model.md R130). -/
def adjust (p : Params) (c : Color) : Color where
  r := adjustChannel p.adjRed c.r
  g := adjustChannel p.adjGreen c.g
  b := adjustChannel p.adjBlue c.b

/-- A colour as a response value, `{0x00, r, g, b}` (30_encoding.md R112). -/
def colorValue (c : Color) : Word := 0#8 ++ c.r ++ c.g ++ c.b

/-- Lane k of a packed word, bits [8k+7 : 8k] (20_memory.md R73). -/
def lane (w : Word) (k : Nat) : Byte := w.extractLsb' (8 * k) 8

/-- Four bytes packed into a word, lane 0 least significant (20_memory.md R73). -/
def packLanes (b3 b2 b1 b0 : Byte) : Word := b3 ++ b2 ++ b1 ++ b0

/-- One output bit at a bit offset of a 32-bit mask, `b << o` (42_pdm.md R152, R155). -/
def bitAt (b : Bool) (o : Offset) : Word := (if b then 1#32 else 0#32) <<< o.toNat

/-- `rate_mask(f) = ~(RTC_HZ / f − 1)` as a 32-bit value (44_screen_driver.md R210). -/
def rateMask (rtcHz f : Nat) : Word := ~~~(BitVec.ofNat 32 (rtcHz / f - 1))

/-- `f` is a power of two with 1 ≤ f ≤ RTC_HZ, the rates `rate_mask` is defined for (44_screen_driver.md R210). -/
def rateOk (rtcHz f : Nat) : Bool := decide (f = 2 ^ f.log2) && decide (f ≤ rtcHz)

/-- The cycles of `delay_ns(ns)`: `ceil(ns × F_CPU / 10^9)` (41_delay.md R143). -/
def delayNsCycles (fCpu ns : Nat) : Nat := (ns * fCpu + (10 ^ 9 - 1)) / 10 ^ 9

end Machine

end Sys2Proof
end

