-- ==== Sys2Proof/Machine/Flags.lean ====
section
/-! DEFINITION. The block stores no status flag (10_state.md R42). Its one computed flag is the carry of the PDM addition,
which is an operation's output bit; the batched form yields four of them, scattered into a mask. The addition WRAPS
(90_conflicts.md C3): 42_pdm.md R150 and R152. -/

namespace Sys2Proof.Machine

/-- The 9-bit sum `zext_9(current) + zext_9(target)` (42_pdm.md R150). -/
def pulseSum (cur tgt : Byte) : BitVec 9 := cur.zeroExtend 9 + tgt.zeroExtend 9

/-- The new accumulator `s[7:0]`, the wrapped remainder (42_pdm.md R150). -/
def pulseAcc (cur tgt : Byte) : Byte := (pulseSum cur tgt).extractLsb' 0 8

/-- The output bit `s[8]`, the carry out of bit 7 (42_pdm.md R150). -/
def pulseBit (cur tgt : Byte) : Bool := (pulseSum cur tgt).getLsbD 8

/-- The four new accumulators of `pwm_pulse4`, packed (42_pdm.md R152). No carry passes between lanes. -/
def pulse4Acc (cur4 tgt4 : Word) : Word :=
  packLanes (pulseAcc (lane cur4 3) (lane tgt4 3)) (pulseAcc (lane cur4 2) (lane tgt4 2))
    (pulseAcc (lane cur4 1) (lane tgt4 1)) (pulseAcc (lane cur4 0) (lane tgt4 0))

/-- The output mask of `pwm_pulse4`: the four carries at the caller's offsets, combined by OR (42_pdm.md R152). -/
def pulse4Mask (cur4 tgt4 : Word) (o0 o1 o2 o3 : Offset) : Word :=
  bitAt (pulseBit (lane cur4 0) (lane tgt4 0)) o0 ||| bitAt (pulseBit (lane cur4 1) (lane tgt4 1)) o1 |||
    bitAt (pulseBit (lane cur4 2) (lane tgt4 2)) o2 ||| bitAt (pulseBit (lane cur4 3) (lane tgt4 3)) o3

end Sys2Proof.Machine
end

