-- ==== Sys2Proof/Decode.lean ====
section
/-! DEFINITION. The command encoding (30_encoding.md): the opcode map, the six formats, a decoder that is total on any
list of command words and rejects by name, and AFTER it the encoder, written from the same tables. A command is one, two
or three 32-bit words, the header first (R100); its length is a function of the opcode alone (R109). Words have no byte
order (20_memory.md R73: there is no fetch). -/

namespace Sys2Proof

/-- The operations that have an opcode (30_encoding.md R108). -/
inductive Op where
  | driveMid
  | drivePost
  | flip
  | set
  | setAdj
  | trySet
  | trySetAdj
  | pulse
  | pulse4
  | setMask
  | delay
  | peek
  | adjust
deriving DecidableEq, Repr

/-- The six formats (30_encoding.md R101). -/
inductive Format where
  | z
  | i
  | p
  | k
  | m
  | q
deriving DecidableEq, Repr

/-- Why a command is illegal (30_encoding.md R110, R111). PEEK off the panel is the one illegal command this list does
not name: it depends on the panel's size, so its meaning finds it. -/
inductive Illegal where
  /-- The opcode is 0x00 or 0x0E..0xFF (R110). -/
  | reservedOpcode
  /-- A field that must be 0 is not (R111). -/
  | fieldNotZero
  /-- PEEK has sel = 3 (R111). -/
  | reservedSelector
deriving DecidableEq, Repr

/-- What the words at the command port spell (30_encoding.md R117, R118). -/
inductive Decoded where
  /-- A command and how many words it takes. -/
  | command (i : Instr) (words : Nat)
  /-- An illegal command and how many words it takes: all of them are consumed (R111). -/
  | illegal (why : Illegal) (words : Nat)
  /-- Fewer words than the header's opcode requires (R117). -/
  | incomplete
  /-- No word at all. -/
  | empty
deriving DecidableEq, Repr

/-- The opcodes of 30_encoding.md R108. -/
def Op.code : Op → BitVec 8
  | .driveMid => 0x01#8
  | .drivePost => 0x02#8
  | .flip => 0x03#8
  | .set => 0x04#8
  | .setAdj => 0x05#8
  | .trySet => 0x06#8
  | .trySetAdj => 0x07#8
  | .pulse => 0x08#8
  | .pulse4 => 0x09#8
  | .setMask => 0x0A#8
  | .delay => 0x0B#8
  | .peek => 0x0C#8
  | .adjust => 0x0D#8

/-- The opcode map's rows, in order (30_encoding.md R108). -/
def Op.all : List Op :=
  [.driveMid, .drivePost, .flip, .set, .setAdj, .trySet, .trySetAdj, .pulse, .pulse4, .setMask, .delay, .peek, .adjust]

/-- The operation an opcode names; every other opcode is reserved (30_encoding.md R110). -/
def Op.ofCode (c : BitVec 8) : Option Op := Op.all.find? (fun o => o.code == c)

/-- The format column of 30_encoding.md R108. -/
def Op.format : Op → Format
  | .driveMid | .drivePost | .flip => .z
  | .set | .setAdj | .trySet | .trySetAdj => .p
  | .pulse | .delay | .adjust => .i
  | .pulse4 => .q
  | .setMask => .m
  | .peek => .k

/-- The words of a format (30_encoding.md R101). -/
def Format.words : Format → Nat
  | .z | .i => 1
  | .p | .k | .m => 2
  | .q => 3

/-- The length of a command, a function of its opcode alone (30_encoding.md R109). -/
def Op.words (o : Op) : Nat := o.format.words

/-- Header bits [31:24] (30_encoding.md R100). -/
def opcode (h : Word) : BitVec 8 := h.extractLsb' 24 8

/-- Header bits [23:0], the operand field `a` (30_encoding.md R100). -/
def operand (h : Word) : BitVec 24 := h.extractLsb' 0 24

/-- `{op[7:0], a[23:0]}` (30_encoding.md R100). -/
def header (o : Op) (a : BitVec 24) : Word := o.code ++ a

/-- x in header bits [23:12] (30_encoding.md R104). -/
def fieldX (h : Word) : Coord := h.extractLsb' 12 12

/-- y in header bits [11:0] (30_encoding.md R104). -/
def fieldY (h : Word) : Coord := h.extractLsb' 0 12

/-- The header's operand field of formats P and K (30_encoding.md R104, R105). -/
def packXY (x y : Coord) : BitVec 24 := x ++ y

/-- A colour `0xRRGGBB` (00_scope.md R19). -/
def Color.ofBits (v : BitVec 24) : Color := ⟨v.extractLsb' 16 8, v.extractLsb' 8 8, v.extractLsb' 0 8⟩

/-- A colour as 24 bits, red most significant (00_scope.md R19). -/
def Color.toBits (c : Color) : BitVec 24 := c.r ++ c.g ++ c.b

/-- `sel[1:0]`: 0 BACK, 1 TGT, 2 CUR, 3 reserved (30_encoding.md R105). -/
def ArraySel.ofBits (v : BitVec 2) : Option ArraySel :=
  if v = 0#2 then some .back else if v = 1#2 then some .tgt else if v = 2#2 then some .cur else none

/-- The selector's bits (30_encoding.md R105). -/
def ArraySel.toBits : ArraySel → BitVec 2
  | .back => 0#2
  | .tgt => 1#2
  | .cur => 2#2

/-- A command that has its reserved field at 0, and an illegal one otherwise (30_encoding.md R111). -/
def requireZero {n : Nat} (v : BitVec n) (i : Instr) : Except Illegal Instr :=
  if v = 0#n then .ok i else .error .fieldNotZero

/-- A format-P command: colour word bits [31:24] must be 0 (30_encoding.md R104). -/
def decodeP (mk : Coord → Coord → Color → Instr) (h w1 : Word) : Except Illegal Instr :=
  requireZero (w1.extractLsb' 24 8) (mk (fieldX h) (fieldY h) (.ofBits (w1.extractLsb' 0 24)))

/-- PEEK: word 1 bits [31:2] must be 0 and sel must not be 3 (30_encoding.md R105, R111). -/
def decodePeek (h w1 : Word) : Except Illegal Instr :=
  match ArraySel.ofBits (w1.extractLsb' 0 2) with
  | some sel => requireZero (w1.extractLsb' 2 30) (.peek (fieldX h) (fieldY h) sel)
  | none => .error (if w1.extractLsb' 2 30 = 0#30 then .reservedSelector else .fieldNotZero)

/-- A command of operation `o` from its header and the (up to two) words after it (30_encoding.md R102 to R107). -/
def decodeOp (o : Op) (h w1 w2 : Word) : Except Illegal Instr :=
  match o with
  | .driveMid => requireZero (operand h) .driveMid
  | .drivePost => requireZero (operand h) .drivePost
  | .flip => requireZero (operand h) .flip
  | .set => decodeP .set h w1
  | .setAdj => decodeP .setAdj h w1
  | .trySet => decodeP .trySet h w1
  | .trySetAdj => decodeP .trySetAdj h w1
  | .pulse => requireZero (h.extractLsb' 16 8) (.pulse (h.extractLsb' 8 8) (h.extractLsb' 0 8))
  | .pulse4 =>
    requireZero (h.extractLsb' 20 4)
      (.pulse4 w1 w2 (h.extractLsb' 0 5) (h.extractLsb' 5 5) (h.extractLsb' 10 5) (h.extractLsb' 15 5))
  | .setMask => requireZero (operand h) (.setMask w1)
  | .delay => .ok (.delay (operand h))
  | .peek => decodePeek h w1
  | .adjust => .ok (.adjust (.ofBits (operand h)))

/-- What the words at the port spell: the decoder, total on any list of words (30_encoding.md R109, R117, R118). -/
def decode : List Word → Decoded
  | [] => .empty
  | h :: t =>
    match Op.ofCode (opcode h) with
    | none => .illegal .reservedOpcode 1
    | some o =>
      if t.length + 1 < o.words then .incomplete
      else
        match decodeOp o h (t.getD 0 0) (t.getD 1 0) with
        | .ok i => .command i o.words
        | .error why => .illegal why o.words

/-- One item of a program: a command or an illegal one (30_encoding.md R117, R118). -/
inductive Item where
  | command (i : Instr)
  | illegal (why : Illegal)
deriving DecidableEq, Repr

/-- The items a list of words parses into; `none` for a list that ends inside a command (30_encoding.md R117). Every
item takes at least one word, so the list's length is fuel enough. -/
def parseWords : Nat → List Word → Option (List Item)
  | _, [] => some []
  | 0, _ :: _ => none
  | fuel + 1, h :: t =>
    match decode (h :: t) with
    | .command i n => (parseWords fuel ((h :: t).drop n)).map (Item.command i :: ·)
    | .illegal why n => (parseWords fuel ((h :: t).drop n)).map (Item.illegal why :: ·)
    | .incomplete => none
    | .empty => some []

/-- A program: a finite list of words that parses into a list of items (30_encoding.md R117). -/
def parseProgram (ws : List Word) : Option (List Item) := parseWords ws.length ws

/-- The operation of a command. -/
def Instr.op : Instr → Op
  | .driveMid => .driveMid
  | .drivePost => .drivePost
  | .flip => .flip
  | .set _ _ _ => .set
  | .setAdj _ _ _ => .setAdj
  | .trySet _ _ _ => .trySet
  | .trySetAdj _ _ _ => .trySetAdj
  | .pulse _ _ => .pulse
  | .pulse4 _ _ _ _ _ _ => .pulse4
  | .setMask _ => .setMask
  | .delay _ => .delay
  | .peek _ _ _ => .peek
  | .adjust _ => .adjust

/-- The header's operand field of a command (30_encoding.md R101). -/
def Instr.operandBits : Instr → BitVec 24
  | .driveMid | .drivePost | .flip | .setMask _ => 0#24
  | .set x y _ | .setAdj x y _ | .trySet x y _ | .trySetAdj x y _ | .peek x y _ => packXY x y
  | .pulse cur tgt => 0#8 ++ cur ++ tgt
  | .pulse4 _ _ o0 o1 o2 o3 => 0#4 ++ o3 ++ o2 ++ o1 ++ o0
  | .delay n => n
  | .adjust c => c.toBits

/-- The words after the header (30_encoding.md R101). -/
def Instr.tailWords : Instr → List Word
  | .driveMid | .drivePost | .flip | .pulse _ _ | .delay _ | .adjust _ => []
  | .set _ _ c | .setAdj _ _ c | .trySet _ _ c | .trySetAdj _ _ c => [0#8 ++ c.toBits]
  | .peek _ _ sel => [0#30 ++ sel.toBits]
  | .setMask mask => [mask]
  | .pulse4 cur4 tgt4 _ _ _ _ => [cur4, tgt4]

/-- The words of a command: the encoder (30_encoding.md R101 to R108). -/
def encode (i : Instr) : List Word := header i.op i.operandBits :: i.tailWords

/-- The words of a list of commands, one after the other (30_encoding.md R117). -/
def encodeProgram (is : List Instr) : List Word := is.flatMap encode

/-- The three command words of a number whose bits are numbered from the header's bit 0 upward (the longest command has
three words, 30_encoding.md R109). -/
def tableWords (nbits w : Nat) : List Word :=
  let v := w % 2 ^ nbits
  [BitVec.ofNat 32 v, BitVec.ofNat 32 (v / 2 ^ 32), BitVec.ofNat 32 (v / 2 ^ 64)]

/-- The command the decoder reads from those words, none where it refuses them. -/
def decodeTableWord (nbits w : Nat) : Option Instr :=
  match decode (tableWords nbits w) with
  | .command i _ => some i
  | .illegal _ _ => none
  | .incomplete => none
  | .empty => none

end Sys2Proof
end

