-- ==== Sys2Proof/Machine/Memory.lean ====
section
/-! DEFINITION. One framebuffer array as plain data (20_memory.md R70): the list of its cells that do not hold 0, by the
linear cell number of R72, in one canonical form. A cell that is not listed reads as 0, which is every array's reset
contents (10_state.md R39 to R41). Every access is one byte (20_memory.md R76). -/

namespace Sys2Proof.Machine

/-- The cells of one array, those that hold 0 left out. -/
abbrev Memory := List Host.Cell

/-- What a cell that is not listed reads as: the reset value of every cell (10_state.md R39 to R41). -/
def unlistedByte : Byte := 0

/-- The byte of cell `a`. -/
def Memory.readByte : Memory → Nat → Byte
  | [], _ => unlistedByte
  | c :: m, a => if c.1 = a then c.2 else Memory.readByte m a

/-- Cell `a` of the list removed. -/
def Memory.erase : Memory → Nat → Memory
  | [], _ => []
  | c :: m, a => if c.1 = a then m else c :: Memory.erase m a

/-- Cell `a` listed with byte `b`, at its place in the rising order. -/
def Memory.insert : Memory → Nat → Byte → Memory
  | [], a, b => [(a, b)]
  | c :: m, a, b =>
    if a < c.1 then (a, b) :: c :: m
    else if c.1 = a then (a, b) :: m
    else c :: Memory.insert m a b

/-- Byte `b` written to cell `a`, the canonical form kept: a cell that comes to hold 0 leaves the list. -/
def Memory.writeByte (m : Memory) (a : Nat) (b : Byte) : Memory :=
  if b = unlistedByte then Memory.erase m a else Memory.insert m a b

/-- The canonical form: addresses strictly rising, and no listed cell holds what an unlisted one reads as. -/
abbrev Memory.wf (m : Memory) : Prop :=
  m.Pairwise (fun c d => c.1 < d.1) ∧ ∀ c ∈ m, c.2 ≠ unlistedByte

/-- Every listed cell lies below `n`: the array holds no cell outside its shape (20_memory.md R70). -/
abbrev Memory.within (m : Memory) (n : Nat) : Prop := ∀ c ∈ m, c.1 < n

end Sys2Proof.Machine
end

