-- ==== Sys2Proof/Machine/State.lean ====
section
/-! DEFINITION. The state as plain data: the driver registers, the output latches, the three framebuffer arrays
(10_state.md R30), the command in progress, the command port, what the outside has been shown (00_scope.md R12), the two
input counters (10_state.md R45, R46), and the parameters (00_scope.md R13). INVENTORY.md lists every field. -/

namespace Sys2Proof.Machine

/-- PHASE: the action of the next transition (10_state.md R31; ClockPhase = 0, DataPhase = 1, 00_scope.md R18). -/
inductive Phase where
  | clock
  | data
deriving DecidableEq, Repr

/-- The status of a response (30_encoding.md R112). -/
inductive Status where
  | ok
  | illegal
deriving DecidableEq, Repr

/-- A response record (30_encoding.md R112). -/
structure Response where
  status : Status
  flipped : Bool
  value : Word
  value2 : Word
deriving DecidableEq, Repr

/-- One event of the pin trace, `Pin(t, clk, latch, data)` (10_state.md R44). -/
structure Pin where
  t : Word
  clk : Bool
  latch : Bool
  data : Word
deriving DecidableEq, Repr

/-- An input counter (10_state.md R45, R46): its true count so far, by how much it grows before each of the coming
samples as far as that is listed, and how many growths nothing listed have been drawn from the free values. -/
structure Counter where
  count : Nat
  ahead : List Nat
  drawn : Nat
deriving DecidableEq, Repr

/-- A command that has begun and not returned: it waits (41_delay.md R140). -/
inductive Busy where
  /-- DRIVE_POST, between two rounds of its loop (44_screen_driver.md R208). -/
  | drivePost
  /-- DELAY n, with the sample `start` of `delay_cycles` (41_delay.md R141). -/
  | delay (n : BitVec 24) (start : Word)
deriving DecidableEq, Repr

/-- The block raises no exception, so no step ends in a fault (60_exceptions.md R250, R253: "A model gives it no
constructor"). -/
inductive Fault where
deriving DecidableEq, Repr

/-- Why a step has no meaning. -/
inductive Refusal where
  /-- Raised by an arm of `exec` for an instruction that has no meaning yet. Safe: the model stops. -/
  | notModelled (mnemonic : String)
  /-- Raised by SET and SET_ADJ with a coordinate off the panel, which the spec gives no meaning
  (43_framebuffer.md R185, 93_implementation_defined.md U1). Safe: nothing can be proved of what follows. -/
  | setterOutOfRange
  /-- Raised by `step` where the presented words end inside a command (30_encoding.md R117: "a model should refuse such
  a list", U3). Safe: nothing can be proved of what follows. -/
  | incompleteCommand
deriving DecidableEq, Repr

structure State where
  /-- The parameters; no step writes them (10_state.md R43). -/
  cfg : Params
  /-- PHASE (10_state.md R31). -/
  phase : Phase
  /-- IDX, the shift bit index (10_state.md R32). -/
  idx : Nat
  /-- LAST_RTC (10_state.md R33). -/
  lastRtc : Word
  /-- RTC_MASK (10_state.md R34). -/
  rtcMask : Word
  /-- PHASE_START (10_state.md R35). -/
  phaseStart : Word
  /-- CLK (10_state.md R36). -/
  clk : Bool
  /-- LATCH (10_state.md R37). -/
  latch : Bool
  /-- DATA (10_state.md R38). -/
  data : Word
  /-- BACK (10_state.md R39). -/
  back : Memory
  /-- TGT (10_state.md R40). -/
  tgt : Memory
  /-- CUR (10_state.md R41). -/
  cur : Memory
  /-- The command in progress (70_reset_and_hazards.md R280). -/
  busy : Option Busy
  /-- The words presented at the command port and not yet read (30_encoding.md R117). -/
  port : List Word
  /-- The index of the next unread word (30_encoding.md R117). -/
  nextWord : Nat
  /-- RESET applied and not yet taken (70_reset_and_hazards.md R280). -/
  resetIn : Bool
  /-- The responses returned so far, oldest first (00_scope.md R12). -/
  responses : List Response
  /-- The pin trace so far, oldest first (10_state.md R44). -/
  pins : List Pin
  /-- The cycle counter (10_state.md R45). -/
  cyc : Counter
  /-- The real-time counter (10_state.md R46). -/
  rtc : Counter
deriving DecidableEq, Repr

/-- The state after the reset event, for any parameters and any value of the two counters (10_state.md R47,
70_reset_and_hazards.md R280). -/
def State.resetAt (p : Params) (cyc rtc : Counter) : State where
  cfg := p
  phase := .clock
  idx := 0
  lastRtc := 0
  rtcMask := p.rtcMaskInit
  phaseStart := BitVec.ofNat 32 cyc.count
  clk := false
  latch := false
  data := 0
  back := []
  tgt := []
  cur := []
  busy := none
  port := []
  nextWord := 0
  resetIn := false
  responses := []
  pins := []
  cyc := cyc
  rtc := rtc

/-- Building the block: parameters outside the table's constraints are refused (93_implementation_defined.md U10). -/
def State.instantiate (p : Params) (cyc rtc : Counter) : Option State :=
  if p.wf then some (State.resetAt p cyc rtc) else none

/-- The machine right after reset, with the spec's reference parameters (notes/assumptions/1.md) and counters of which
nothing is known (notes/assumptions/3.md). -/
def State.reset : State :=
  State.resetAt Params.reference ⟨Config.cycAtReset, [], 0⟩ ⟨Config.rtcAtReset, [], 0⟩

end Sys2Proof.Machine
end

