-- ==== Sys2Proof/Machine/Ops.lean ====
section
/-! DEFINITION. The named operations the commands share: sampling the counters, returning a response, the framebuffer's
micro-operations, the PDM line step, the dwell gate, the two actions of the protocol state machine, the command port, and
the reset event. The block takes no exception and returns from none (60_exceptions.md R250, R258, R259), so there is no
such operation; its nearest relative is the ILLEGAL response, which "transfers control nowhere, saves nothing and changes
no state" (R272). -/

namespace Sys2Proof.Machine

/-! ### The input counters -/

/-- The next sample's true count: the listed growth, or a free one (10_state.md R45, R46; notes/assumptions/2.md). -/
def Counter.tick (free : Nat → Nat) (c : Counter) : Counter :=
  match c.ahead with
  | d :: ds => { c with count := c.count + d, ahead := ds }
  | [] => { c with count := c.count + free c.drawn, drawn := c.drawn + 1 }

/-- What a sample shows of a true count: its residue modulo 2^32 (10_state.md R45, R46). -/
def Counter.shown (c : Counter) : Word := BitVec.ofNat 32 c.count

/-- `sample(cyc)`: one sample of the cycle counter is taken; `cycNow` is what it showed (00_scope.md R17). -/
def sampleCyc (s : State) : State := { s with cyc := s.cyc.tick Config.freeCycGrowth }

/-- `sample(rtc)`: one sample of the real-time counter is taken; `rtcNow` is what it showed. -/
def sampleRtc (s : State) : State := { s with rtc := s.rtc.tick Config.freeRtcGrowth }

/-- The value of the latest `sample(cyc)`. -/
def State.cycNow (s : State) : Word := s.cyc.shown

/-- The value of the latest `sample(rtc)`. -/
def State.rtcNow (s : State) : Word := s.rtc.shown

/-! ### Responses -/

/-- A legal command's response: status OK and the fields given (30_encoding.md R112). -/
def okResponse (flipped : Bool) (value value2 : Word) : Response := ⟨.ok, flipped, value, value2⟩

/-- The response of a command that returns nothing: OK, and every other field 0 (30_encoding.md R112). -/
def plainOk : Response := okResponse false 0 0

/-- The response of an illegal command (30_encoding.md R118). -/
def illegalResponse : Response := ⟨.illegal, false, 0, 0⟩

/-- `return`: the command ends and gives its response (00_scope.md R17). -/
def respond (r : Response) (s : State) : State := { s with responses := s.responses ++ [r] }

/-! ### The command port -/

/-- `n` words of the port are consumed (30_encoding.md R100, R117). -/
def consume (n : Nat) (s : State) : State := { s with port := s.port.drop n, nextWord := s.nextWord + n }

/-- An illegal command: no state changes but the response (30_encoding.md R118). -/
def answerIllegal (s : State) : State := respond illegalResponse s

/-- No command is presented: the block waits for one (70_reset_and_hazards.md R281, R296). -/
def awaitCommand (s : State) : State := s

/-! ### The framebuffer -/

/-- `BACK[l][x]` (00_scope.md R17). -/
def State.backAt (s : State) (l x : Nat) : Byte := s.back.readByte (cellAddr s.cfg l x)

/-- `TGT[l][x]`. -/
def State.tgtAt (s : State) (l x : Nat) : Byte := s.tgt.readByte (cellAddr s.cfg l x)

/-- `CUR[l][x]`. -/
def State.curAt (s : State) (l x : Nat) : Byte := s.cur.readByte (cellAddr s.cfg l x)

/-- The cell of channel c of pixel (x, y) (20_memory.md R71, R72). -/
def pixelCell (p : Params) (x y : Coord) (c : Nat) : Nat := cellAddr p (line y.toNat c) x.toNat

/-- A pixel's three cells written (43_framebuffer.md R173). -/
def writePixel (p : Params) (x y : Coord) (c : Color) (m : Memory) : Memory :=
  ((m.writeByte (pixelCell p x y 0) c.r).writeByte (pixelCell p x y 1) c.g).writeByte (pixelCell p x y 2) c.b

/-- A pixel's three cells read (43_framebuffer.md R179). -/
def readPixel (p : Params) (x y : Coord) (m : Memory) : Color where
  r := m.readByte (pixelCell p x y 0)
  g := m.readByte (pixelCell p x y 1)
  b := m.readByte (pixelCell p x y 2)

/-- `set_adjusted(x, y, c)`: BACK takes the colour and the pixel's three accumulators are zeroed, as one step
(43_framebuffer.md R173). -/
def setAdjusted (x y : Coord) (c : Color) (s : State) : State :=
  { s with back := writePixel s.cfg x y c s.back, cur := writePixel s.cfg x y ⟨0, 0, 0⟩ s.cur }

/-- `flip()`: TGT becomes a copy of BACK (43_framebuffer.md R171). -/
def flipBuffers (s : State) : State := { s with tgt := s.back }

/-- The array a PEEK selects (43_framebuffer.md R179). -/
def State.array (s : State) : ArraySel → Memory
  | .back => s.back
  | .tgt => s.tgt
  | .cur => s.cur

/-! ### The PDM line step -/

/-- Column x of `pdm_line(l)`: the accumulator steps and its carry joins the mask (42_pdm.md R155). -/
def pdmColumn (p : Params) (l : Nat) (tgt : Memory) (acc : Memory × Word) (x : Nat) : Memory × Word :=
  let a := cellAddr p l x
  (acc.1.writeByte a (pulseAcc (acc.1.readByte a) (tgt.readByte a)),
    acc.2 ||| bitAt (pulseBit (acc.1.readByte a) (tgt.readByte a)) (p.offset x))

/-- `pdm_line(l)` on TGT and CUR: the new CUR and the mask (42_pdm.md R155). -/
def pdmLine (p : Params) (l : Nat) (tgt cur : Memory) : Memory × Word :=
  (List.range p.width).foldl (pdmColumn p l tgt) (cur, 0)

/-- `DATA <- pdm_line(IDX)` (44_screen_driver.md R204). -/
def pdmStep (s : State) : State :=
  { s with cur := (pdmLine s.cfg s.idx s.tgt s.cur).1, data := (pdmLine s.cfg s.idx s.tgt s.cur).2 }

/-! ### The protocol state machine -/

/-- `dwell(PHASE)` (44_screen_driver.md R201). -/
def dwell (p : Params) : Phase → Nat
  | .clock => p.dwellClock
  | .data => p.dwellData

/-- `elapsed(now)`, modulo 2^32 (44_screen_driver.md R201). -/
def elapsed (now : Word) (s : State) : Word := now - s.phaseStart

/-- `dwell_ok(now)` (44_screen_driver.md R201). -/
def dwellOk (now : Word) (s : State) : Bool := decide (dwell s.cfg s.phase ≤ (elapsed now s).toNat)

/-- `emit Pin(now, CLK, LATCH, DATA)` (10_state.md R44). -/
def emitPin (now : Word) (s : State) : State := { s with pins := s.pins ++ [⟨now, s.clk, s.latch, s.data⟩] }

/-- The end of an action: the phase changes, PHASE_START takes the stamp, and the pins' event is emitted
(44_screen_driver.md R203, R204). -/
def enterPhase (ph : Phase) (now : Word) (s : State) : State :=
  emitPin now { s with phase := ph, phaseStart := now }

/-- `clock_action(now)` (44_screen_driver.md R203). -/
def clockAction (now : Word) (s : State) : State :=
  enterPhase .data now { s with clk := true, latch := s.latch || (s.idx == 0) }

/-- IDX is at the last scan line, so the data action wraps (44_screen_driver.md R204). -/
def atLastLine (s : State) : Bool := s.idx + 1 == s.cfg.shiftCount

/-- CLK and LATCH cleared and IDX advanced (44_screen_driver.md R204). -/
def nextLine (s : State) : State :=
  { s with clk := false, latch := false, idx := if atLastLine s then 0 else s.idx + 1 }

/-- `frame_check()`: one sample of `rtc`; a masked sample that differs from LAST_RTC is a frame boundary
(44_screen_driver.md R205). -/
def frameCheck (s : State) : State × Bool :=
  let s1 := sampleRtc s
  let m := s1.rtcNow &&& s1.rtcMask
  if m = s1.lastRtc then (s1, false) else (flipBuffers { s1 with lastRtc := m }, true)

/-- `data_action(now, eligible)`, with its `flipped` (44_screen_driver.md R204). -/
def dataAction (now : Word) (eligible : Bool) (s : State) : State × Bool :=
  let r := if atLastLine s && eligible then frameCheck (nextLine s) else (nextLine s, false)
  (enterPhase .clock now (pdmStep r.1), r.2)

/-- `advance(now, eligible)`, with its `flipped` (44_screen_driver.md R202). -/
def advance (now : Word) (eligible : Bool) (s : State) : State × Bool :=
  match s.phase with
  | .clock => (clockAction now s, false)
  | .data => dataAction now eligible s

/-! ### Reset -/

/-- The reset event: every register, latch and array takes its reset value, PHASE_START takes a sample of `cyc`, the pin
trace starts empty and no command is in progress (70_reset_and_hazards.md R280). What the host still presents at the port
is outside the block and stays (notes/assumptions/8.md). -/
def resetEvent (s : State) : State :=
  { State.resetAt s.cfg (sampleCyc s).cyc s.rtc with port := s.port }

end Sys2Proof.Machine
end

