-- ==== Sys2Proof/Machine/ColorModel.lean ====
section
/-! DEFINITION. The colour model's command (40_color_model.md). -/

namespace Sys2Proof.Machine

/-- ADJUST: pure; the response carries the adjusted colour (40_color_model.md R131). -/
def execAdjust (c : Color) (s : State) : Host.Outcome State Fault Refusal :=
  .next (respond (okResponse false (colorValue (adjust s.cfg c)) 0) s)

end Sys2Proof.Machine
end

