-- ==== Sys2Proof/Machine/Delay.lean ====
section
/-! DEFINITION. The cycle-counted delay (41_delay.md). A wait is a step for each sample it looks at: the command stays in
progress until a sample satisfies it (notes/assumptions/4.md). -/

namespace Sys2Proof.Machine

/-- `(sample(cyc) − start) >= n`, modulo 2^32 (41_delay.md R141). -/
def delayOver (n : BitVec 24) (start now : Word) : Bool := decide (n.toNat ≤ (now - start).toNat)

/-- One round of the wait of `delay_cycles(n)`: one sample; over, the command returns, else it stays in progress
(41_delay.md R140, R141). -/
def pollDelay (n : BitVec 24) (start : Word) (s : State) : State :=
  let s1 := sampleCyc s
  if delayOver n start s1.cycNow then respond plainOk { s1 with busy := none }
  else { s1 with busy := some (.delay n start) }

/-- DELAY n: the start sample, then the first round of the wait (41_delay.md R141, R142). -/
def execDelay (n : BitVec 24) (s : State) : Host.Outcome State Fault Refusal :=
  .next (pollDelay n (sampleCyc s).cycNow (sampleCyc s))

end Sys2Proof.Machine
end

