-- ==== Sys2Proof/Machine/Driver.lean ====
section
/-! DEFINITION. The screen driver's commands (44_screen_driver.md). A DRIVE_POST is a loop that may never end (R216): each
step of the machine is one round of it, and the command stays in progress until a round flips
(notes/assumptions/4.md). -/

namespace Sys2Proof.Machine

/-- DRIVE_MID (44_screen_driver.md R207): exactly one sample of `cyc`, at most one transition, never eligible. -/
def execDriveMid (s : State) : Host.Outcome State Fault Refusal :=
  .next
    (let s1 := sampleCyc s
    if dwellOk s1.cycNow s1 then respond (okResponse false 1 0) (advance s1.cycNow false s1).1
    else respond (okResponse false 0 0) s1)

/-- One round of DRIVE_POST's loop (44_screen_driver.md R208): one sample of `cyc`; while the dwell has not elapsed the
command waits, and a sample that satisfies the wait is the stamp of an eligible transition; a flip ends the command. -/
def pollDrivePost (s : State) : State :=
  let s1 := sampleCyc s
  if dwellOk s1.cycNow s1 then
    let r := advance s1.cycNow true s1
    if r.2 then respond (okResponse true 0 0) { r.1 with busy := none } else { r.1 with busy := some .drivePost }
  else { s1 with busy := some .drivePost }

/-- DRIVE_POST: the first round of its loop (44_screen_driver.md R208). -/
def execDrivePost (s : State) : Host.Outcome State Fault Refusal := .next (pollDrivePost s)

/-- SET_MASK mask: RTC_MASK and nothing else (44_screen_driver.md R209). -/
def execSetMask (mask : Word) (s : State) : Host.Outcome State Fault Refusal :=
  .next (respond plainOk { s with rtcMask := mask })

end Sys2Proof.Machine
end

