-- ==== Sys2Proof/Machine/Framebuffer.lean ====
section
/-! DEFINITION. The framebuffer's commands (43_framebuffer.md). -/

namespace Sys2Proof.Machine

/-- FLIP (43_framebuffer.md R172): LAST_RTC and the `flipped` bit are untouched. -/
def execFlip (s : State) : Host.Outcome State Fault Refusal :=
  .next (respond plainOk (flipBuffers s))

/-- An unchecked setter: on the panel it writes; off it the spec gives no meaning (43_framebuffer.md R185). -/
def setUnchecked (x y : Coord) (c : Color) (s : State) : Host.Outcome State Fault Refusal :=
  if inRange s.cfg x y then .next (respond plainOk (setAdjusted x y c s)) else .refused .setterOutOfRange

/-- A checked setter: off the panel nothing happens, and the response is the same (43_framebuffer.md R177). -/
def setChecked (x y : Coord) (c : Color) (s : State) : State :=
  respond plainOk (if inRange s.cfg x y then setAdjusted x y c s else s)

/-- SET x, y, colour (43_framebuffer.md R175). -/
def execSet (x y : Coord) (c : Color) (s : State) : Host.Outcome State Fault Refusal :=
  setUnchecked x y (adjust s.cfg c) s

/-- SET_ADJ x, y, colour (43_framebuffer.md R174). -/
def execSetAdj (x y : Coord) (c : Color) (s : State) : Host.Outcome State Fault Refusal :=
  setUnchecked x y c s

/-- TRY_SET x, y, colour (43_framebuffer.md R178). -/
def execTrySet (x y : Coord) (c : Color) (s : State) : Host.Outcome State Fault Refusal :=
  .next (setChecked x y (adjust s.cfg c) s)

/-- TRY_SET_ADJ x, y, colour (43_framebuffer.md R177). -/
def execTrySetAdj (x y : Coord) (c : Color) (s : State) : Host.Outcome State Fault Refusal :=
  .next (setChecked x y c s)

/-- PEEK x, y, sel: the three bytes of the selected array, or an illegal command off the panel
(43_framebuffer.md R179). -/
def execPeek (x y : Coord) (sel : ArraySel) (s : State) : Host.Outcome State Fault Refusal :=
  .next
    (if inRange s.cfg x y then
      respond (okResponse false (colorValue (readPixel s.cfg x y (s.array sel))) 0) s
    else answerIllegal s)

end Sys2Proof.Machine
end

