-- ==== Sys2Proof/Machine/Pdm.lean ====
section
/-! DEFINITION. The PDM engine's commands (42_pdm.md), both pure, and the batched form of the line step (R154, R155),
which the state machine does not use and which is there to be proved equal to the scalar one. -/

namespace Sys2Proof.Machine

/-- The response value of PULSE, `{0[22:0], bit, current'[7:0]}` (30_encoding.md R112). -/
def pulseValue (cur tgt : Byte) : Word := 0#23 ++ BitVec.ofBool (pulseBit cur tgt) ++ pulseAcc cur tgt

/-- PULSE cur, tgt (42_pdm.md R151). -/
def execPulse (cur tgt : Byte) (s : State) : Host.Outcome State Fault Refusal :=
  .next (respond (okResponse false (pulseValue cur tgt) 0) s)

/-- PULSE4 cur4, tgt4, o0, o1, o2, o3 (42_pdm.md R153). -/
def execPulse4 (cur4 tgt4 : Word) (o0 o1 o2 o3 : Offset) (s : State) : Host.Outcome State Fault Refusal :=
  .next (respond (okResponse false (pulse4Acc cur4 tgt4) (pulse4Mask cur4 tgt4 o0 o1 o2 o3)) s)

/-- Columns 4j..4j+3 of scan line l packed into a word, column 4j+k in lane k (20_memory.md R73). -/
def packColumns (p : Params) (l j : Nat) (m : Memory) : Word :=
  packLanes (m.readByte (cellAddr p l (4 * j + 3))) (m.readByte (cellAddr p l (4 * j + 2)))
    (m.readByte (cellAddr p l (4 * j + 1))) (m.readByte (cellAddr p l (4 * j)))

/-- The four lanes of a word written back to columns 4j..4j+3 of scan line l. -/
def writeColumns (p : Params) (l j : Nat) (w : Word) (m : Memory) : Memory :=
  (((m.writeByte (cellAddr p l (4 * j)) (lane w 0)).writeByte (cellAddr p l (4 * j + 1)) (lane w 1)).writeByte
    (cellAddr p l (4 * j + 2)) (lane w 2)).writeByte (cellAddr p l (4 * j + 3)) (lane w 3)

/-- Group j of the batched line step: one `pwm_pulse4` at the offsets `OFF[4j+k]` (42_pdm.md R155). -/
def pdmGroup (p : Params) (l : Nat) (tgt : Memory) (acc : Memory × Word) (j : Nat) : Memory × Word :=
  let c := packColumns p l j acc.1
  let t := packColumns p l j tgt
  (writeColumns p l j (pulse4Acc c t) acc.1,
    acc.2 ||| pulse4Mask c t (p.offset (4 * j)) (p.offset (4 * j + 1)) (p.offset (4 * j + 2)) (p.offset (4 * j + 3)))

/-- The batched line step over the WIDTH / 4 groups of a line (42_pdm.md R155; WIDTH a multiple of 4, 20_memory.md
R74). -/
def pdmLineBatched (p : Params) (l : Nat) (tgt cur : Memory) : Memory × Word :=
  (List.range (p.width / 4)).foldl (pdmGroup p l tgt) (cur, 0)

/-- `n` steps of one pixel-channel with constant target: how many high bits, and the accumulator after them
(42_pdm.md R156, R157). -/
def pulseRun (tgt : Byte) : Nat → Byte → Nat × Byte
  | 0, acc => (0, acc)
  | n + 1, acc =>
    let r := pulseRun tgt n (pulseAcc acc tgt)
    ((pulseBit acc tgt).toNat + r.1, r.2)

end Sys2Proof.Machine
end

