-- ==== Sys2Proof/Machine/Dispatch.lean ====
section
/-! DEFINITION. One arm for each command (30_encoding.md R108): a direct call of its meaning. -/

namespace Sys2Proof.Machine

def exec (i : Instr) (s : State) : Host.Outcome State Fault Refusal :=
  match i with
  | .driveMid => Sys2Proof.Machine.execDriveMid s
  | .drivePost => Sys2Proof.Machine.execDrivePost s
  | .flip => Sys2Proof.Machine.execFlip s
  | .set x y c => Sys2Proof.Machine.execSet x y c s
  | .setAdj x y c => Sys2Proof.Machine.execSetAdj x y c s
  | .trySet x y c => Sys2Proof.Machine.execTrySet x y c s
  | .trySetAdj x y c => Sys2Proof.Machine.execTrySetAdj x y c s
  | .pulse cur tgt => Sys2Proof.Machine.execPulse cur tgt s
  | .pulse4 cur4 tgt4 o0 o1 o2 o3 => Sys2Proof.Machine.execPulse4 cur4 tgt4 o0 o1 o2 o3 s
  | .setMask mask => Sys2Proof.Machine.execSetMask mask s
  | .delay n => Sys2Proof.Machine.execDelay n s
  | .peek x y sel => Sys2Proof.Machine.execPeek x y sel s
  | .adjust c => Sys2Proof.Machine.execAdjust c s

end Sys2Proof.Machine
end

