-- ==== Sys2Proof/Machine/Waiting.lean ====
section
/-! DEFINITION. What a step does while a command is in progress (41_delay.md R140). -/

namespace Sys2Proof.Machine

/-- One round of the command in progress. -/
def resume (b : Busy) (s : State) : State :=
  match b with
  | .drivePost => pollDrivePost s
  | .delay n start => pollDelay n start s

end Sys2Proof.Machine
end

