-- ==== Sys2Proof/Machine/Step.lean ====
section
/-! DEFINITION. One step of the block: the RESET input if it is applied, else one round of the command in progress, else
the next command of the port (30_encoding.md R100, R117). -/

namespace Sys2Proof.Machine

/-- The next command of the port: a whole command is consumed, then performed (30_encoding.md R100, R118). -/
def nextCommand (s : State) : Host.Outcome State Fault Refusal :=
  match decode s.port with
  | .command i n => exec i (consume n s)
  | .illegal _ n => .next (answerIllegal (consume n s))
  | .incomplete => .refused .incompleteCommand
  | .empty => .next (awaitCommand s)

/-- One step. -/
def step (s : State) : Host.Outcome State Fault Refusal :=
  if s.resetIn then .next (resetEvent s)
  else
    match s.busy with
    | some b => .next (resume b s)
    | none => nextCommand s

/-- The state with the command of these bits presented at the port, so that the very next step reads and runs it: RESET
is not applied and no command is in progress (notes/assumptions/15.md). -/
def State.withFetchWord (s : State) (nbits w : Nat) : State :=
  { s with port := tableWords nbits w, busy := none, resetIn := false }

end Sys2Proof.Machine
end

