-- ==== Sys2Proof/Machine/Assembler.lean ====
section
/-! DEFINITION. The assembler form `MNEMONIC operand, operand, ...` (30_encoding.md R115) and the pseudo-instructions
(R116). A line is its mnemonic and its operands as numbers; how a number is spelled (decimal or hexadecimal) is left to
the reader of the text (notes/assumptions/17.md). -/

namespace Sys2Proof.Machine

/-- An operand of an assembler line: a number, or the name of an array (30_encoding.md R115). -/
inductive AsmOperand where
  | num (n : Nat)
  | arr (sel : ArraySel)
deriving DecidableEq, Repr

/-- A line of assembler text (30_encoding.md R115). -/
structure AsmLine where
  mnemonic : String
  operands : List AsmOperand
deriving DecidableEq, Repr

/-- The pseudo-instructions (30_encoding.md R116). -/
inductive Pseudo where
  /-- `SET_RATE f`. -/
  | setRate (f : Nat)
  /-- `DELAY_NS ns`. -/
  | delayNs (ns : Nat)
  /-- `SET_RGB x, y, r, g, b`. -/
  | setRgb (x y : Coord) (r g b : Byte)
  /-- `TRY_SET_RGB x, y, r, g, b`. -/
  | trySetRgb (x y : Coord) (r g b : Byte)
deriving DecidableEq, Repr

/-- The one command a pseudo-instruction expands to; `none` is an assembly-time error: a rate `rate_mask` is not defined
for, or a delay above 16777215 cycles (30_encoding.md R116). -/
def Pseudo.expand (p : Params) : Pseudo → Option Instr
  | .setRate f => if rateOk p.rtcHz f then some (.setMask (rateMask p.rtcHz f)) else none
  | .delayNs ns =>
    if delayNsCycles p.fCpu ns ≤ 16777215 then some (.delay (BitVec.ofNat 24 (delayNsCycles p.fCpu ns))) else none
  | .setRgb x y r g b => some (.set x y ⟨r, g, b⟩)
  | .trySetRgb x y r g b => some (.trySet x y ⟨r, g, b⟩)

/-- A number operand. -/
def operandOf {n : Nat} (v : BitVec n) : AsmOperand := .num v.toNat

/-- The textual form of a command (30_encoding.md R115). -/
def asmOf : Instr → AsmLine
  | .driveMid => ⟨"DRIVE_MID", []⟩
  | .drivePost => ⟨"DRIVE_POST", []⟩
  | .flip => ⟨"FLIP", []⟩
  | .set x y c => ⟨"SET", [operandOf x, operandOf y, operandOf c.toBits]⟩
  | .setAdj x y c => ⟨"SET_ADJ", [operandOf x, operandOf y, operandOf c.toBits]⟩
  | .trySet x y c => ⟨"TRY_SET", [operandOf x, operandOf y, operandOf c.toBits]⟩
  | .trySetAdj x y c => ⟨"TRY_SET_ADJ", [operandOf x, operandOf y, operandOf c.toBits]⟩
  | .pulse cur tgt => ⟨"PULSE", [operandOf cur, operandOf tgt]⟩
  | .pulse4 cur4 tgt4 o0 o1 o2 o3 =>
    ⟨"PULSE4", [operandOf cur4, operandOf tgt4, operandOf o0, operandOf o1, operandOf o2, operandOf o3]⟩
  | .setMask mask => ⟨"SET_MASK", [operandOf mask]⟩
  | .delay n => ⟨"DELAY", [operandOf n]⟩
  | .peek x y sel => ⟨"PEEK", [operandOf x, operandOf y, .arr sel]⟩
  | .adjust c => ⟨"ADJUST", [operandOf c.toBits]⟩

/-- A number as an operand field of n bits, if it fits. -/
def field (n v : Nat) : Option (BitVec n) := if v < 2 ^ n then some (BitVec.ofNat n v) else none

/-- The pixel writes' operands `x, y, 0xRRGGBB`. -/
def asmPixel (mk : Coord → Coord → Color → Instr) : List AsmOperand → Option Instr
  | [.num x, .num y, .num c] => do
    return mk (← field 12 x) (← field 12 y) (.ofBits (← field 24 c))
  | _ => none

/-- The pseudo-instructions' operands `x, y, r, g, b`. -/
def asmRgb (mk : Coord → Coord → Byte → Byte → Byte → Pseudo) : List AsmOperand → Option Pseudo
  | [.num x, .num y, .num r, .num g, .num b] => do
    return mk (← field 12 x) (← field 12 y) (← field 8 r) (← field 8 g) (← field 8 b)
  | _ => none

/-- A command without operands. -/
def asmPlain (i : Instr) : List AsmOperand → Option Instr
  | [] => some i
  | _ => none

/-- A line assembled to its command, pseudo-instructions expanded (30_encoding.md R115, R116). -/
def assemble (p : Params) (l : AsmLine) : Option Instr :=
  if l.mnemonic = "DRIVE_MID" then asmPlain .driveMid l.operands
  else if l.mnemonic = "DRIVE_POST" then asmPlain .drivePost l.operands
  else if l.mnemonic = "FLIP" then asmPlain .flip l.operands
  else if l.mnemonic = "SET" then asmPixel .set l.operands
  else if l.mnemonic = "SET_ADJ" then asmPixel .setAdj l.operands
  else if l.mnemonic = "TRY_SET" then asmPixel .trySet l.operands
  else if l.mnemonic = "TRY_SET_ADJ" then asmPixel .trySetAdj l.operands
  else if l.mnemonic = "PULSE" then
    match l.operands with
    | [.num c, .num t] => do return .pulse (← field 8 c) (← field 8 t)
    | _ => none
  else if l.mnemonic = "PULSE4" then
    match l.operands with
    | [.num c, .num t, .num o0, .num o1, .num o2, .num o3] => do
      return .pulse4 (← field 32 c) (← field 32 t) (← field 5 o0) (← field 5 o1) (← field 5 o2) (← field 5 o3)
    | _ => none
  else if l.mnemonic = "SET_MASK" then
    match l.operands with
    | [.num m] => do return .setMask (← field 32 m)
    | _ => none
  else if l.mnemonic = "DELAY" then
    match l.operands with
    | [.num n] => do return .delay (← field 24 n)
    | _ => none
  else if l.mnemonic = "PEEK" then
    match l.operands with
    | [.num x, .num y, .arr sel] => do return .peek (← field 12 x) (← field 12 y) sel
    | _ => none
  else if l.mnemonic = "ADJUST" then
    match l.operands with
    | [.num c] => do return .adjust (.ofBits (← field 24 c))
    | _ => none
  else if l.mnemonic = "SET_RATE" then
    match l.operands with
    | [.num f] => (Pseudo.setRate f).expand p
    | _ => none
  else if l.mnemonic = "DELAY_NS" then
    match l.operands with
    | [.num ns] => (Pseudo.delayNs ns).expand p
    | _ => none
  else if l.mnemonic = "SET_RGB" then (asmRgb .setRgb l.operands).bind (·.expand p)
  else if l.mnemonic = "TRY_SET_RGB" then (asmRgb .trySetRgb l.operands).bind (·.expand p)
  else none

end Sys2Proof.Machine
end

