-- ==== Sys2Proof/Machine/Observe.lean ====
section
/-! DEFINITION. What the outside can compute from the pin trace (00_scope.md R12): the words presented to the shift
registers at rising clock edges (44_screen_driver.md R215). -/

namespace Sys2Proof.Machine

/-- The scan line after `l` of `n` (44_screen_driver.md R219). -/
def lineAfter (n l : Nat) : Nat := if l + 1 = n then 0 else l + 1

/-- The list SHIFTED of 44_screen_driver.md R215 as a function of the pin trace: every clock action (CLK high after it)
gives (IDX, LATCH, DATA), and every data action (CLK low after it) moves IDX on. `l` is IDX before the first event. -/
def shiftedFrom (n : Nat) : Nat → List Pin → List (Nat × Bool × Word)
  | _, [] => []
  | l, e :: es =>
    if e.clk then (l, e.latch, e.data) :: shiftedFrom n l es else shiftedFrom n (lineAfter n l) es

/-- SHIFTED since reset: IDX starts at 0 (44_screen_driver.md R215, 10_state.md R32). -/
def shifted (s : State) : List (Nat × Bool × Word) := shiftedFrom s.cfg.shiftCount 0 s.pins

/-- IDX as the pin trace shows it: where `l` has moved to after the data actions of a trace (44_screen_driver.md R219). -/
def lineOf (n : Nat) : Nat → List Pin → Nat
  | l, [] => l
  | l, e :: es => if e.clk then lineOf n l es else lineOf n (lineAfter n l) es

end Sys2Proof.Machine
end

