-- ==== Sys2Proof/WellFormed.lean ====
section
/-! DEFINITION. The well-formedness of a command against the panel's size. The operand WIDTHS are types in
Syntax.lean; what a type cannot say is that a coordinate lies on the panel: SET and SET_ADJ off the panel have no
meaning (30_encoding.md R119: "A model must refuse them in its well-formedness check", 43_framebuffer.md R185), and a
PEEK off the panel is an illegal command (30_encoding.md R111). TRY_SET and TRY_SET_ADJ take every coordinate. -/

namespace Sys2Proof

/-- The command has a meaning (43_framebuffer.md R185) and is legal (30_encoding.md R111) on this panel. -/
def Instr.wf (p : Params) : Instr → Bool
  | .driveMid => true
  | .drivePost => true
  | .flip => true
  | .set x y _ => Machine.inRange p x y
  | .setAdj x y _ => Machine.inRange p x y
  | .trySet _ _ _ => true
  | .trySetAdj _ _ _ => true
  | .pulse _ _ => true
  | .pulse4 _ _ _ _ _ _ => true
  | .setMask _ => true
  | .delay _ => true
  | .peek x y _ => Machine.inRange p x y
  | .adjust _ => true

/-- Every command of a list is well formed: the host's duty (b) of 60_exceptions.md R268 for a whole program. -/
def programWf (p : Params) (is : List Instr) : Bool := is.all (Instr.wf p)

end Sys2Proof
end

