-- ==== Sys2Proof/Safety.lean ====
section
/-! DEFINITION. What holds in every state a run reaches, in the terms the statements use: the spec's own invariants
(10_state.md R48, 44_screen_driver.md R214), the laws of the pin trace (R44, R213, R215, R219), and the premises the spec
puts on the host (60_exceptions.md R268). -/

namespace Sys2Proof.Machine

/-- Every bit of a DATA word that is no `OFF[x]` is 0 (10_state.md R38, R48 (b)). -/
def OnLanes (p : Params) (d : Word) : Prop :=
  ∀ j, (∀ x, x < p.width → (p.offset x).toNat ≠ j) → d.getLsbD j = false

/-- The invariants of the block: the parameters are legal, R48 (a) to (d), and the arrays keep their canonical form and
hold no cell outside their shape. -/
structure State.Inv (s : State) : Prop where
  cfg_wf : s.cfg.wf
  /-- R48 (a). -/
  idx_lt : s.idx < s.cfg.shiftCount
  /-- R48 (b). -/
  data_lanes : OnLanes s.cfg s.data
  /-- R48 (c). -/
  clk_phase : s.clk = true ↔ s.phase = .data
  /-- R48 (d), and its converse, R214: LATCH is high exactly from the clock action with IDX 0 to the data action. -/
  latch_first : s.latch = true ↔ s.clk = true ∧ s.idx = 0
  back_wf : s.back.wf
  tgt_wf : s.tgt.wf
  cur_wf : s.cur.wf
  back_in : s.back.within s.cfg.cells
  tgt_in : s.tgt.within s.cfg.cells
  cur_in : s.cur.within s.cfg.cells

/-- The laws of the pin trace: its last event shows the latches and the stamp (10_state.md R44); clock and data actions
alternate from a clock action on (44_screen_driver.md R200); IDX is where the trace has moved to (R219); DATA does not
change at a rising edge of CLK (R213); and of the words presented to the shift registers exactly those of scan line 0
come with LATCH (R214, R215). -/
structure State.TraceInv (s : State) : Prop where
  last : ∀ e, s.pins.getLast? = some e → e = ⟨s.phaseStart, s.clk, s.latch, s.data⟩
  alternates : ∀ (k : Nat) (e : Pin), s.pins[k]? = some e → (e.clk = true ↔ k % 2 = 0)
  parity : s.phase = .data ↔ s.pins.length % 2 = 1
  position : lineOf s.cfg.shiftCount 0 s.pins = s.idx
  stable : ∀ (k : Nat) (e f : Pin), s.pins[k]? = some e → s.pins[k + 1]? = some f → f.clk = true → f.data = e.data
  latched : ∀ q ∈ shifted s, (q.2.1 = true ↔ q.1 = 0)

/-- `T0` is the true cycle count of the latest transition: the counter showed PHASE_START there (10_state.md R35, R45). -/
def StampedAt (s : State) (T0 : Nat) : Prop := T0 ≤ s.cyc.count ∧ BitVec.ofNat 32 T0 = s.phaseStart

/-- The host's duty (b) of 60_exceptions.md R268, for the next command of the port: it is not a SET or SET_ADJ off the
panel (43_framebuffer.md R185); and the list does not end inside a command (30_encoding.md R117). -/
def HostDuty (s : State) : Prop :=
  decode s.port ≠ .incomplete ∧
  ∀ n x y c, (decode s.port = .command (.set x y c) n ∨ decode s.port = .command (.setAdj x y c) n) →
    inRange s.cfg x y = true

end Sys2Proof.Machine
end

