-- ==== Sys2Proof/Certificates/Slice0/Obligations.lean ====
section
/-! DEFINITION. The statements about the block, each written from a numbered rule of spec/. `exec i s = .next t` says that
the command completes; a next state is given field by field as an update of `s`, so that every field the update does not
name is unchanged (the frame). Where an array changes, the statement says what every one of its cells reads as. -/

open Sys2Proof Sys2Proof.Machine

/-! ### The terms of the statements -/

/-- The cycle counter after the next sample of `cyc` (10_state.md R45). -/
def Claims.cycAfter (s : State) : Counter := s.cyc.tick Config.freeCycGrowth

/-- The value the next sample of `cyc` shows. -/
def Claims.cycSample (s : State) : Word := (Claims.cycAfter s).shown

/-- The real-time counter after the next sample of `rtc` (10_state.md R46). -/
def Claims.rtcAfter (s : State) : Counter := s.rtc.tick Config.freeRtcGrowth

/-- The masked value the next frame check sees, `sample(rtc) & RTC_MASK` (44_screen_driver.md R205). -/
def Claims.maskedSample (s : State) : Word := (Claims.rtcAfter s).shown &&& s.rtcMask

/-- The dwell of the current phase has elapsed at the next sample of `cyc` (44_screen_driver.md R201). -/
def Claims.DwellElapsed (s : State) : Prop :=
  (match s.phase with | .clock => s.cfg.dwellClock | .data => s.cfg.dwellData) ≤
    (Claims.cycSample s - s.phaseStart).toNat

/-- The wrap: IDX is SHIFT_COUNT − 1 (44_screen_driver.md R204). -/
def Claims.AtWrap (s : State) : Prop := s.idx + 1 = s.cfg.shiftCount

/-- IDX after a data action (44_screen_driver.md R204). -/
def Claims.nextIdx (s : State) : Nat := if s.idx + 1 = s.cfg.shiftCount then 0 else s.idx + 1

/-- `cur'` and `mask` are what `pdm_line(l)` makes of `tgt` and `cur` (42_pdm.md R155): each cell of line l holds its
wrapped sum, every other cell is as before, and bit j of the mask is 1 exactly if a column with offset j carried. -/
def Claims.LineStepped (p : Params) (l : Nat) (tgt cur cur' : Memory) (mask : Word) : Prop :=
  (∀ x, x < p.width →
    (cur'.readByte (cellAddr p l x)).toNat =
      ((cur.readByte (cellAddr p l x)).toNat + (tgt.readByte (cellAddr p l x)).toNat) % 256) ∧
  (∀ a, (∀ x, x < p.width → a ≠ cellAddr p l x) → cur'.readByte a = cur.readByte a) ∧
  (∀ j, mask.getLsbD j = true ↔
    ∃ x, x < p.width ∧ (p.offset x).toNat = j ∧
      256 ≤ (cur.readByte (cellAddr p l x)).toNat + (tgt.readByte (cellAddr p l x)).toNat)

/-- `t` is `s` after the pixel (x, y) was written with colour c and the command returned (43_framebuffer.md R173): the
pixel's three BACK cells hold the channels, its three CUR cells hold 0, every other cell of the two arrays reads as
before, and nothing else changed but the response. The cells are those `set_adjusted` writes, `pixelCell`. -/
def Claims.PixelWritten (s t : State) (x y : Coord) (c : Color) : Prop :=
  t = { s with back := t.back, cur := t.cur, responses := s.responses ++ [⟨.ok, false, 0, 0⟩] } ∧
  t.back.readByte (pixelCell s.cfg x y 0) = c.r ∧ t.back.readByte (pixelCell s.cfg x y 1) = c.g ∧
  t.back.readByte (pixelCell s.cfg x y 2) = c.b ∧
  (∀ k, k < 3 → t.cur.readByte (pixelCell s.cfg x y k) = 0) ∧
  (∀ a, (∀ k, k < 3 → a ≠ pixelCell s.cfg x y k) →
    t.back.readByte a = s.back.readByte a ∧ t.cur.readByte a = s.cur.readByte a)

/-- The four setters (43_framebuffer.md R173 to R178). -/
def Claims.IsSetter (i : Instr) : Prop :=
  ∃ x y c, i = .set x y c ∨ i = .setAdj x y c ∨ i = .trySet x y c ∨ i = .trySetAdj x y c

/-- The two drives (44_screen_driver.md R206). -/
def Claims.IsDrive (i : Instr) : Prop := i = .driveMid ∨ i = .drivePost

/-- A field that must be 0 is not, or PEEK selects no array or a pixel off the panel (30_encoding.md R111): `h` is the
header of operation `o` and `w1` the word after it. -/
def Claims.BadFields (p : Params) (o : Op) (h w1 : Word) : Prop :=
  ((o.format = .z ∨ o.format = .m) ∧ h.extractLsb' 0 24 ≠ 0#24) ∨
  (o = .pulse ∧ h.extractLsb' 16 8 ≠ 0#8) ∨
  (o.format = .q ∧ h.extractLsb' 20 4 ≠ 0#4) ∨
  (o.format = .p ∧ w1.extractLsb' 24 8 ≠ 0#8) ∨
  (o.format = .k ∧ w1.extractLsb' 2 30 ≠ 0#30) ∨
  (o = .peek ∧ w1.extractLsb' 0 2 = 3#2) ∨
  (o = .peek ∧ (p.width ≤ (h.extractLsb' 12 12).toNat ∨ p.height ≤ (h.extractLsb' 0 12).toNat))

/-- The default multipliers of 00_scope.md R13. -/
def Claims.DefaultAdj (p : Params) : Prop := p.adjRed = ⟨1, 1⟩ ∧ p.adjGreen = ⟨29, 50⟩ ∧ p.adjBlue = ⟨29, 70⟩

/-- The high bits at column x's offset over n steps of scan line l with its targets held (42_pdm.md R160). -/
def Claims.laneHighs (p : Params) (l : Nat) (tgt : Memory) (x : Nat) : Nat → Memory → Nat
  | 0, _ => 0
  | n + 1, cur =>
    ((pdmLine p l tgt cur).2.getLsbD (p.offset x).toNat).toNat +
      Claims.laneHighs p l tgt x n (pdmLine p l tgt cur).1

/-- An outcome with its next state mapped. -/
def Claims.mapNext (f : State → State) : Host.Outcome State Fault Refusal → Host.Outcome State Fault Refusal
  | .next t => .next (f t)
  | .fault r => .fault r
  | .refused r => .refused r

/-! ### The encoding -/

/-- Decoding an encoded command gives it back, with every operand at every value, whatever words follow
(30_encoding.md R101 to R109). -/
def Obligations.DecodeOfEncodeIsTheCommand : Prop :=
  ∀ (i : Instr) (rest : List Word), decode (encode i ++ rest) = .command i (encode i).length

/-- The other direction: words that decode to a command are that command's encoding, so each command has one spelling
(30_encoding.md R101 to R109). -/
def Obligations.EncodeOfDecodeIsTheWords : Prop :=
  ∀ (ws : List Word) (i : Instr) (n : Nat), decode ws = .command i n → n = (encode i).length ∧ ws.take n = encode i

/-- The spec's worked encodings (30_encoding.md R120): each line of text assembles to its command, the command is encoded
as its words, and the words decode to it. -/
def Obligations.WorkedEncodingsDecode : Prop :=
  ∀ p : Params, ∀ q ∈ ([
    (⟨"DRIVE_MID", []⟩, .driveMid, [0x01000000#32]),
    (⟨"DRIVE_POST", []⟩, .drivePost, [0x02000000#32]),
    (⟨"FLIP", []⟩, .flip, [0x03000000#32]),
    (⟨"SET", [.num 1, .num 0, .num 0xFF8040]⟩, .set 1 0 ⟨0xFF, 0x80, 0x40⟩, [0x04001000#32, 0x00FF8040#32]),
    (⟨"SET_ADJ", [.num 3, .num 1, .num 0x102030]⟩, .setAdj 3 1 ⟨0x10, 0x20, 0x30⟩, [0x05003001#32, 0x00102030#32]),
    (⟨"TRY_SET", [.num 4, .num 0, .num 0xFFFFFF]⟩, .trySet 4 0 ⟨0xFF, 0xFF, 0xFF⟩, [0x06004000#32, 0x00FFFFFF#32]),
    (⟨"TRY_SET_ADJ", [.num 0xFFF, .num 0, .num 0x010203]⟩, .trySetAdj 0xFFF 0 ⟨1, 2, 3⟩,
      [0x07FFF000#32, 0x00010203#32]),
    (⟨"PULSE", [.num 200, .num 100]⟩, .pulse 200 100, [0x0800C864#32]),
    (⟨"PULSE4", [.num 0x00FF80C8, .num 0x01FF8064, .num 0, .num 1, .num 2, .num 3]⟩,
      .pulse4 0x00FF80C8 0x01FF8064 0 1 2 3, [0x09018820#32, 0x00FF80C8#32, 0x01FF8064#32]),
    (⟨"SET_MASK", [.num 0xFFFFFC00]⟩, .setMask 0xFFFFFC00, [0x0A000000#32, 0xFFFFFC00#32]),
    (⟨"DELAY", [.num 15]⟩, .delay 15, [0x0B00000F#32]),
    (⟨"PEEK", [.num 1, .num 0, .arr .cur]⟩, .peek 1 0 .cur, [0x0C001000#32, 0x00000002#32]),
    (⟨"ADJUST", [.num 0xFFFFFF]⟩, .adjust ⟨0xFF, 0xFF, 0xFF⟩, [0x0DFFFFFF#32])] : List (AsmLine × Instr × List Word)),
    assemble p q.1 = some q.2.1 ∧ encode q.2.1 = q.2.2 ∧ decode q.2.2 = .command q.2.1 q.2.2.length

/-- The words of a list of commands parse into exactly those commands (30_encoding.md R117). -/
def Obligations.ProgramParsesIntoItsCommands : Prop :=
  ∀ is : List Instr, parseProgram (encodeProgram is) = some (is.map Item.command)

/-- A header whose opcode is 0x00 or 0x0E..0xFF is an illegal command of one word; so are the all-zero and the all-ones
word (30_encoding.md R110). -/
def Obligations.ReservedOpcodeIsIllegalOfOneWord : Prop :=
  (∀ (h : Word) (t : List Word), opcode h = 0x00#8 ∨ 0x0E ≤ (opcode h).toNat →
    decode (h :: t) = .illegal .reservedOpcode 1) ∧
  (∀ t, decode (0x00000000#32 :: t) = .illegal .reservedOpcode 1) ∧
  (∀ t, decode (0xFFFFFFFF#32 :: t) = .illegal .reservedOpcode 1)

/-- A command with a defined opcode and a bad field (30_encoding.md R111), its words all presented: all of them are
consumed, and the response is ILLEGAL; nothing else changes. -/
def Obligations.BadFieldsAnswerIllegal : Prop :=
  ∀ (s : State) (o : Op) (h : Word) (t : List Word),
    s.resetIn = false → s.busy = none → s.port = h :: t → Op.ofCode (opcode h) = some o → o.words ≤ t.length + 1 →
    Claims.BadFields s.cfg o h (t.getD 0 0) →
    step s = .next { s with
      port := s.port.drop o.words, nextWord := s.nextWord + o.words
      responses := s.responses ++ [⟨.illegal, false, 0, 0⟩] }

/-- What an illegal command does (30_encoding.md R118): its words are consumed and the response is
`{ILLEGAL, 0, 0, 0}`; no other state changes, no input is sampled, no pin event is emitted. A PEEK off the panel answers
the same. And every header decodes to a command of its own opcode, or to illegal, or lacks words (R117). -/
def Obligations.IllegalCommandOnlyAnswers : Prop :=
  (∀ (s : State) (why : Illegal) (n : Nat), s.resetIn = false → s.busy = none → decode s.port = .illegal why n →
    step s = .next { s with
      port := s.port.drop n, nextWord := s.nextWord + n
      responses := s.responses ++ [⟨.illegal, false, 0, 0⟩] }) ∧
  (∀ (s : State) (x y : Coord) (sel : ArraySel), ¬ (x.toNat < s.cfg.width ∧ y.toNat < s.cfg.height) →
    exec (.peek x y sel) s = .next { s with responses := s.responses ++ [⟨.illegal, false, 0, 0⟩] }) ∧
  (∀ (h : Word) (t : List Word),
    (∃ i, decode (h :: t) = .command i i.op.words ∧ i.op.code = opcode h) ∨
    (∃ why n, decode (h :: t) = .illegal why n) ∨
    (∃ o, Op.ofCode (opcode h) = some o ∧ t.length + 1 < o.words ∧ decode (h :: t) = .incomplete))

/-- The assembler form read back is the command it was written from (30_encoding.md R115). -/
def Obligations.AssemblerFormReadsBack : Prop := ∀ (p : Params) (i : Instr), assemble p (asmOf i) = some i

/-- The pseudo-instructions (30_encoding.md R116): SET_RATE f is SET_MASK rate_mask(f) for a power of two f with
1 ≤ f ≤ RTC_HZ; DELAY_NS ns is DELAY of the least n with n / F_CPU ≥ ns / 10^9, and an error if n exceeds 16777215;
SET_RGB and TRY_SET_RGB are SET and TRY_SET of the packed colour. -/
def Obligations.PseudoInstructionsExpandToOneCommand : Prop :=
  (∀ (p : Params) (k : Nat), 2 ^ k ≤ p.rtcHz →
    (Pseudo.setRate (2 ^ k)).expand p = some (.setMask (~~~(BitVec.ofNat 32 (p.rtcHz / 2 ^ k - 1))))) ∧
  (∀ (p : Params) (ns n : Nat), ns * p.fCpu ≤ n * 10 ^ 9 → (∀ m, ns * p.fCpu ≤ m * 10 ^ 9 → n ≤ m) →
    (n ≤ 16777215 → ∃ d : BitVec 24, d.toNat = n ∧ (Pseudo.delayNs ns).expand p = some (.delay d)) ∧
    (16777215 < n → (Pseudo.delayNs ns).expand p = none)) ∧
  (∀ (p : Params) (x y : Coord) (r g b : Byte),
    (Pseudo.setRgb x y r g b).expand p = some (.set x y ⟨r, g, b⟩) ∧
    (Pseudo.trySetRgb x y r g b).expand p = some (.trySet x y ⟨r, g, b⟩))

/-! ### The step -/

/-- A step with no RESET applied and no command in progress runs the command the port's words decode to, after consuming
its words (30_encoding.md R100, R117). -/
def Obligations.StepRunsTheDecodedCommand : Prop :=
  ∀ (s : State) (i : Instr) (n : Nat), s.resetIn = false → s.busy = none → decode s.port = .command i n →
    step s = exec i { s with port := s.port.drop n, nextWord := s.nextWord + n }

/-- A step without a command to read: with no word at the port the block waits and nothing changes
(70_reset_and_hazards.md R281), with words that end inside a command the list is refused (30_encoding.md R117), and while
a DRIVE_POST is in progress the step is its next round, the command run again (44_screen_driver.md R208). The refusal and
the round per step are the model's choices (notes/assumptions/5.md, 4.md). -/
def Obligations.StepWithoutACommandWaitsOrGoesOn : Prop :=
  (∀ s : State, s.resetIn = false → s.busy = none → s.port = [] → step s = .next s) ∧
  (∀ (s : State) (h : Word) (t : List Word) (o : Op), s.resetIn = false → s.busy = none → s.port = h :: t →
    Op.ofCode (opcode h) = some o → t.length + 1 < o.words → step s = .refused .incompleteCommand) ∧
  (∀ s : State, s.resetIn = false → s.busy = some .drivePost → step s = exec .drivePost s)

/-- A step is refused only where the host breaks its duty (60_exceptions.md R268 (b), 30_encoding.md R117): a SET or
SET_ADJ off the panel, or words that end inside a command; and then it is. No step ends in a fault (R250). That words which
end inside a command are refused, where R117 also lets the block wait, is the model's choice (notes/assumptions/5.md). -/
def Obligations.StepIsRefusedExactlyWithoutHostDuty : Prop :=
  (∀ s : State, s.resetIn = false → s.busy = none → ((∃ r, step s = .refused r) ↔ ¬ HostDuty s)) ∧
  (∀ s : State, (s.resetIn = true ∨ s.busy ≠ none) → ∃ t, step s = .next t) ∧
  (∀ (s : State) (r : Fault), step s ≠ .fault r)

/-- An out-of-range SET or SET_ADJ has no meaning: not a no-op, not a wrapped address, not a fault; the model refuses it,
and a command list that contains one is ill-formed (43_framebuffer.md R185). -/
def Obligations.UncheckedSetterOffThePanelIsRefused : Prop :=
  (∀ (s : State) (x y : Coord) (c : Color), ¬ (x.toNat < s.cfg.width ∧ y.toNat < s.cfg.height) →
    exec (.set x y c) s = .refused .setterOutOfRange ∧ exec (.setAdj x y c) s = .refused .setterOutOfRange) ∧
  (∀ (p : Params) (is : List Instr) (x y : Coord) (c : Color), ¬ (x.toNat < p.width ∧ y.toNat < p.height) →
    (.set x y c ∈ is ∨ .setAdj x y c ∈ is) → programWf p is = false)

/-! ### The colour model -/

/-- ADJUST returns each channel multiplied exactly and then divided toward zero, packed as `{0x00, r', g', b'}`, and
changes nothing else (40_color_model.md R130, R131). -/
def Obligations.AdjustReturnsTheScaledChannels : Prop :=
  ∀ (s : State) (c : Color), s.cfg.wf → ∃ v : Word,
    exec (.adjust c) s = .next { s with responses := s.responses ++ [⟨.ok, false, v, 0⟩] } ∧
    v.extractLsb' 24 8 = 0#8 ∧
    (v.extractLsb' 16 8).toNat = c.r.toNat * s.cfg.adjRed.num / s.cfg.adjRed.den ∧
    (v.extractLsb' 8 8).toNat = c.g.toNat * s.cfg.adjGreen.num / s.cfg.adjGreen.den ∧
    (v.extractLsb' 0 8).toNat = c.b.toNat * s.cfg.adjBlue.num / s.cfg.adjBlue.den

/-- The laws of the default `adjust` (40_color_model.md R132): (a) each channel depends only on the same input channel,
(b) each is non-decreasing, (c) each is at most its input (and so the exact quotient fits in its 8 bits), (d) 256 inputs
map to 148 green and 106 blue values, (e) red is unscaled. -/
def Obligations.DefaultAdjustLaws : Prop :=
  ∀ p : Params, Claims.DefaultAdj p →
    (∀ c d : Color, (c.r = d.r → (adjust p c).r = (adjust p d).r) ∧ (c.g = d.g → (adjust p c).g = (adjust p d).g) ∧
      (c.b = d.b → (adjust p c).b = (adjust p d).b)) ∧
    (∀ c d : Color, (c.r ≤ d.r → (adjust p c).r ≤ (adjust p d).r) ∧ (c.g ≤ d.g → (adjust p c).g ≤ (adjust p d).g) ∧
      (c.b ≤ d.b → (adjust p c).b ≤ (adjust p d).b)) ∧
    (∀ c : Color, (adjust p c).r ≤ c.r ∧ (adjust p c).g ≤ c.g ∧ (adjust p c).b ≤ c.b ∧
      (adjust p c).g.toNat = 29 * c.g.toNat / 50 ∧ (adjust p c).b.toNat = 29 * c.b.toNat / 70) ∧
    ((List.range 256).map fun v => (adjust p ⟨0, BitVec.ofNat 8 v, 0⟩).g).dedup.length = 148 ∧
    ((List.range 256).map fun v => (adjust p ⟨0, 0, BitVec.ofNat 8 v⟩).b).dedup.length = 106 ∧
    (∀ c : Color, (adjust p c).r = c.r)

/-! ### The delay -/

/-- DELAY n takes a start sample and then looks at samples: once one has `(sample − start) mod 2^32 ≥ n` it returns, with
response OK and nothing else changed but the samples taken; here the first one it looks at does. With n = 0 that is
always so (41_delay.md R141, R142). -/
def Obligations.DelayReturnsOnceTheCyclesHavePassed : Prop :=
  (∀ (s : State) (n : BitVec 24),
    let c1 := Claims.cycAfter s
    let c2 := c1.tick Config.freeCycGrowth
    n.toNat ≤ (c2.shown - c1.shown).toNat →
    exec (.delay n) s =
      .next { s with cyc := c2, busy := none, responses := s.responses ++ [⟨.ok, false, 0, 0⟩] }) ∧
  (∀ s : State, exec (.delay 0) s = .next { s with
    cyc := (Claims.cycAfter s).tick Config.freeCycGrowth, busy := none
    responses := s.responses ++ [⟨.ok, false, 0, 0⟩] })

/-- While no sample has satisfied it a DELAY does not proceed: it stays in progress with its start sample, nothing else
changes but the samples taken, and every later step looks at one more sample (41_delay.md R140, R141). One sample a
step is the model's choice (notes/assumptions/4.md). -/
def Obligations.DelayWaitsUntilTheCyclesHavePassed : Prop :=
  (∀ (s : State) (n : BitVec 24),
    let c1 := Claims.cycAfter s
    let c2 := c1.tick Config.freeCycGrowth
    (c2.shown - c1.shown).toNat < n.toNat →
    exec (.delay n) s = .next { s with cyc := c2, busy := some (.delay n c1.shown) }) ∧
  (∀ (s : State) (n : BitVec 24) (start : Word), s.resetIn = false → s.busy = some (.delay n start) →
    ((Claims.cycSample s - start).toNat < n.toNat → step s = .next { s with cyc := Claims.cycAfter s }) ∧
    (n.toNat ≤ (Claims.cycSample s - start).toNat →
      step s = .next { s with
        cyc := Claims.cycAfter s, busy := none, responses := s.responses ++ [⟨.ok, false, 0, 0⟩] }))

/-- However long it runs, and whatever the counter shows: by the time a response has followed the start of a DELAY n, the
TRUE cycle count has grown by at least n since its start sample (41_delay.md R142). -/
def Obligations.DelayLastsAtLeastItsTrueCycles : Prop :=
  ∀ (k : Nat) (n : BitVec 24) (s u t : State), s.resetIn = false → exec (.delay n) s = .next u →
    core.run k u = .next t → s.responses.length < t.responses.length →
    (Claims.cycAfter s).count + n.toNat ≤ t.cyc.count

/-! ### The PDM engine -/

/-- PULSE returns the carry in bit 8 and the wrapped remainder in bits [7:0] of `current + target`, zeros above, and
changes nothing else (42_pdm.md R150, R151). -/
def Obligations.PulseReturnsCarryAndRemainder : Prop :=
  ∀ (s : State) (cur tgt : Byte), ∃ v : Word,
    exec (.pulse cur tgt) s = .next { s with responses := s.responses ++ [⟨.ok, false, v, 0⟩] } ∧
    v.extractLsb' 9 23 = 0#23 ∧
    (v.getLsbD 8 = true ↔ 256 ≤ cur.toNat + tgt.toNat) ∧
    (v.extractLsb' 0 8).toNat = (cur.toNat + tgt.toNat) % 256

/-- `pwm_pulse` (42_pdm.md R150): the 9-bit sum is the exact one, the accumulator takes its low 8 bits and the output bit
is the carry, 1 exactly if the sum is at least 256; and the scalar fallback (wraparound add, then a comparison) agrees for
every input, a target of 0 included. -/
def Obligations.CarryFormAndComparisonFormAgree : Prop :=
  (∀ cur tgt : Byte, (pulseSum cur tgt).toNat = cur.toNat + tgt.toNat ∧
    (pulseAcc cur tgt).toNat = (cur.toNat + tgt.toNat) % 256 ∧
    (pulseBit cur tgt = true ↔ 256 ≤ cur.toNat + tgt.toNat) ∧
    pulseAcc cur tgt = cur + tgt ∧ pulseBit cur tgt = decide ((cur + tgt).toNat < cur.toNat)) ∧
  (∀ cur : Byte, pulseAcc cur 0 = cur ∧ pulseBit cur 0 = false)

/-- PULSE4 is four independent scalar steps: lane k of the value is lane k's new accumulator, bit j of value2 is 1
exactly if some lane with offset j carried, and nothing else changes (42_pdm.md R152, R153, R154). -/
def Obligations.PulseFourIsFourPulses : Prop :=
  ∀ (s : State) (cur4 tgt4 : Word) (o : Fin 4 → Offset), ∃ v m : Word,
    exec (.pulse4 cur4 tgt4 (o 0) (o 1) (o 2) (o 3)) s =
      .next { s with responses := s.responses ++ [⟨.ok, false, v, m⟩] } ∧
    (∀ k : Fin 4, v.extractLsb' (8 * k.val) 8 = pulseAcc (cur4.extractLsb' (8 * k.val) 8) (tgt4.extractLsb' (8 * k.val) 8)) ∧
    (∀ j, m.getLsbD j = true ↔ ∃ k : Fin 4, (o k).toNat = j ∧
      pulseBit (cur4.extractLsb' (8 * k.val) 8) (tgt4.extractLsb' (8 * k.val) 8) = true)

/-- n steps with a constant target t from accumulator a give floor((a + n t) / 256) high bits and leave
(a + n t) mod 256; so 256 steps give exactly t high bits and return the accumulator to a, and over any number of steps
the count differs by at most one from the count started at 0 (42_pdm.md R156, R157). -/
def Obligations.PulseRunHasTheExactDutyCount : Prop :=
  (∀ (t a : Byte) (n : Nat), (pulseRun t n a).1 = (a.toNat + n * t.toNat) / 256 ∧
    (pulseRun t n a).2.toNat = (a.toNat + n * t.toNat) % 256) ∧
  (∀ t a : Byte, pulseRun t 256 a = (t.toNat, a)) ∧
  (∀ (t a : Byte) (n : Nat), (pulseRun t n 0).1 ≤ (pulseRun t n a).1 ∧ (pulseRun t n a).1 ≤ (pulseRun t n 0).1 + 1)

/-- No run of equal output bits is longer than ceil(256 / gcd(t, 256)) + 1, for every t in 1..255 and every starting
accumulator: any window one longer holds both values (42_pdm.md R159). -/
def Obligations.PulseRunHasNoLongBurst : Prop :=
  ∀ t a : Byte, t ≠ 0 →
    0 < (pulseRun t (256 / Nat.gcd t.toNat 256 + 2) a).1 ∧
    (pulseRun t (256 / Nat.gcd t.toNat 256 + 2) a).1 < 256 / Nat.gcd t.toNat 256 + 2

/-- `pdm_line(l)` (42_pdm.md R155): the line's accumulators take their wrapped sums, no other cell changes, bit `OFF[x]`
of the result is exactly the carry of column x, and every other bit is 0. -/
def Obligations.LineStepGivesEachColumnItsCarry : Prop :=
  ∀ (p : Params) (l : Nat) (tgt cur : Memory), p.wf → l < p.shiftCount → cur.wf →
    Claims.LineStepped p l tgt cur (pdmLine p l tgt cur).1 (pdmLine p l tgt cur).2 ∧
    (∀ x, x < p.width → (pdmLine p l tgt cur).2.getLsbD (p.offset x).toNat =
      decide (256 ≤ (cur.readByte (cellAddr p l x)).toNat + (tgt.readByte (cellAddr p l x)).toNat)) ∧
    OnLanes p (pdmLine p l tgt cur).2

/-- The batched line step, one `pwm_pulse4` for each group of four columns, computes the same accumulators and the same
mask as the scalar one, for every WIDTH that is a multiple of 4 (42_pdm.md R154, R155). -/
def Obligations.BatchedLineStepEqualsTheScalarOne : Prop :=
  ∀ (p : Params) (l : Nat) (tgt cur : Memory), p.width % 4 = 0 → pdmLineBatched p l tgt cur = pdmLine p l tgt cur

/-- The stream of one pixel-channel on its pin (42_pdm.md R160): over n steps of its scan line with its target held, bit
`OFF[x]` is high floor((accumulator + n · target) / 256) times; so exactly target times in any 256 steps. -/
def Obligations.LaneShowsTheExactDutyCount : Prop :=
  ∀ (p : Params) (l x n : Nat) (tgt cur : Memory), p.wf → l < p.shiftCount → cur.wf → x < p.width →
    Claims.laneHighs p l tgt x n cur =
      ((cur.readByte (cellAddr p l x)).toNat + n * (tgt.readByte (cellAddr p l x)).toNat) / 256 ∧
    Claims.laneHighs p l tgt x 256 cur = (tgt.readByte (cellAddr p l x)).toNat

/-! ### The framebuffer -/

/-- Row-scan indexing (20_memory.md R71): `line(y, c) = 3y + c` is a bijection between {0..HEIGHT−1} × {0, 1, 2} and
{0..SHIFT_COUNT−1}, with inverse (l div 3, l mod 3); the cell of channel c of pixel (x, y) is column x of that line. -/
def Obligations.LineIsABijection : Prop :=
  ∀ p : Params,
    (∀ y c, y < p.height → c < 3 → line y c = y * 3 + c ∧ line y c < p.shiftCount ∧ line y c / 3 = y ∧ line y c % 3 = c) ∧
    (∀ l, l < p.shiftCount → l / 3 < p.height ∧ l % 3 < 3 ∧ line (l / 3) (l % 3) = l) ∧
    (∀ (x y : Coord) (c : Nat), pixelCell p x y c = cellAddr p (line y.toNat c) x.toNat)

/-- The unchecked setters on the panel: SET writes the adjusted colour and SET_ADJ the colour as it is
(43_framebuffer.md R173, R174, R175). -/
def Obligations.UncheckedSettersWriteThePixel : Prop :=
  ∀ (s : State) (x y : Coord) (c : Color), s.back.wf → s.cur.wf → x.toNat < s.cfg.width → y.toNat < s.cfg.height →
    (∃ t, exec (.set x y c) s = .next t ∧ Claims.PixelWritten s t x y (adjust s.cfg c)) ∧
    (∃ t, exec (.setAdj x y c) s = .next t ∧ Claims.PixelWritten s t x y c)

/-- The checked setters on the panel: TRY_SET writes the adjusted colour and TRY_SET_ADJ the colour as it is
(43_framebuffer.md R177, R178). -/
def Obligations.CheckedSettersWriteThePixel : Prop :=
  ∀ (s : State) (x y : Coord) (c : Color), s.back.wf → s.cur.wf → x.toNat < s.cfg.width → y.toNat < s.cfg.height →
    (∃ t, exec (.trySet x y c) s = .next t ∧ Claims.PixelWritten s t x y (adjust s.cfg c)) ∧
    (∃ t, exec (.trySetAdj x y c) s = .next t ∧ Claims.PixelWritten s t x y c)

/-- Checked equals unchecked on the panel; off it the checked setters leave the whole state unchanged but for the
response (43_framebuffer.md R181). -/
def Obligations.CheckedEqualsUncheckedOnThePanel : Prop :=
  ∀ (s : State) (x y : Coord) (c : Color),
    (x.toNat < s.cfg.width ∧ y.toNat < s.cfg.height →
      exec (.trySet x y c) s = exec (.set x y c) s ∧ exec (.trySetAdj x y c) s = exec (.setAdj x y c) s) ∧
    (¬ (x.toNat < s.cfg.width ∧ y.toNat < s.cfg.height) →
      exec (.trySet x y c) s = .next { s with responses := s.responses ++ [⟨.ok, false, 0, 0⟩] } ∧
      exec (.trySetAdj x y c) s = .next { s with responses := s.responses ++ [⟨.ok, false, 0, 0⟩] })

/-- The accumulator reset invariant: any setter on the panel, followed at once by a PEEK of CUR at the same pixel,
returns 0 for all three channels (43_framebuffer.md R182). -/
def Obligations.PeekOfCurAfterASetterReturnsZero : Prop :=
  ∀ (s : State) (i : Instr) (x y : Coord) (c : Color), s.cur.wf → x.toNat < s.cfg.width → y.toNat < s.cfg.height →
    (i = .set x y c ∨ i = .setAdj x y c ∨ i = .trySet x y c ∨ i = .trySetAdj x y c) →
    ∃ t, exec i s = .next t ∧
      exec (.peek x y .cur) t = .next { t with responses := t.responses ++ [⟨.ok, false, 0x00000000#32, 0⟩] }

/-- Each of the four setters on the panel: a PEEK of BACK right after it sees the bytes it wrote (the adjusted colour for
SET and TRY_SET, the colour as it is for SET_ADJ and TRY_SET_ADJ; 20_memory.md R80), TGT is unchanged, and a PEEK of TGT
sees those bytes once a FLIP has copied them (20_memory.md R83). -/
def Obligations.WrittenPixelIsSeenInBackAndAfterAFlipInTgt : Prop :=
  ∀ (s : State) (i : Instr) (x y : Coord) (c d : Color), s.back.wf → x.toNat < s.cfg.width → y.toNat < s.cfg.height →
    ((i = .set x y c ∨ i = .trySet x y c) ∧ d = adjust s.cfg c ∨ (i = .setAdj x y c ∨ i = .trySetAdj x y c) ∧ d = c) →
    ∃ t u, exec i s = .next t ∧ exec .flip t = .next u ∧
      exec (.peek x y .back) t = .next { t with responses := t.responses ++ [⟨.ok, false, 0#8 ++ d.r ++ d.g ++ d.b, 0⟩] } ∧
      t.tgt = s.tgt ∧
      exec (.peek x y .tgt) u = .next { u with responses := u.responses ++ [⟨.ok, false, 0#8 ++ d.r ++ d.g ++ d.b, 0⟩] }

/-- FLIP copies BACK into TGT cell for cell and changes nothing else but the response, whose `flipped` stays 0
(43_framebuffer.md R171, R172). -/
def Obligations.FlipCopiesBackIntoTgt : Prop :=
  ∀ s : State, ∃ t, exec .flip s = .next t ∧
    t = { s with tgt := t.tgt, responses := s.responses ++ [⟨.ok, false, 0, 0⟩] } ∧
    (∀ a, t.tgt.readByte a = s.back.readByte a) ∧ (∀ l x, t.tgtAt l x = s.backAt l x) ∧
    (∀ a, t.back.readByte a = s.back.readByte a) ∧ (∀ a, t.cur.readByte a = s.cur.readByte a)

/-- The whole state after FLIP; FLIP equals the state after FLIP, but for the second response (43_framebuffer.md R180). -/
def Obligations.FlipTwiceIsFlipOnce : Prop :=
  ∀ s : State, ∃ t, exec .flip s = .next t ∧
    exec .flip t = .next { t with responses := t.responses ++ [⟨.ok, false, 0, 0⟩] }

/-- PEEK on the panel returns `{0x00, A[line(y,0)][x], A[line(y,1)][x], A[line(y,2)][x]}` of the selected array and changes
nothing; off the panel it is an illegal command, and with sel = 3 it does not decode (43_framebuffer.md R179). -/
def Obligations.PeekReturnsThePixelOfTheSelectedArray : Prop :=
  (∀ (s : State) (x y : Coord), x.toNat < s.cfg.width → y.toNat < s.cfg.height →
    exec (.peek x y .back) s = .next { s with responses := s.responses ++ [⟨.ok, false,
      0#8 ++ s.backAt (line y.toNat 0) x.toNat ++ s.backAt (line y.toNat 1) x.toNat ++ s.backAt (line y.toNat 2) x.toNat, 0⟩] } ∧
    exec (.peek x y .tgt) s = .next { s with responses := s.responses ++ [⟨.ok, false,
      0#8 ++ s.tgtAt (line y.toNat 0) x.toNat ++ s.tgtAt (line y.toNat 1) x.toNat ++ s.tgtAt (line y.toNat 2) x.toNat, 0⟩] } ∧
    exec (.peek x y .cur) s = .next { s with responses := s.responses ++ [⟨.ok, false,
      0#8 ++ s.curAt (line y.toNat 0) x.toNat ++ s.curAt (line y.toNat 1) x.toNat ++ s.curAt (line y.toNat 2) x.toNat, 0⟩] }) ∧
  (∀ (s : State) (x y : Coord) (sel : ArraySel), ¬ (x.toNat < s.cfg.width ∧ y.toNat < s.cfg.height) →
    exec (.peek x y sel) s = .next { s with responses := s.responses ++ [⟨.illegal, false, 0, 0⟩] }) ∧
  (∀ (h w1 : Word) (t : List Word), Op.ofCode (opcode h) = some .peek → w1.extractLsb' 0 2 = 3#2 →
    ∃ why, decode (h :: w1 :: t) = .illegal why 2)

/-! ### The screen driver -/

/-- The dwell gate (44_screen_driver.md R201): open at a sample exactly if `elapsed ≥ dwell(PHASE)`, equality counting as
elapsed; and an open gate implies that at least `dwell(PHASE)` TRUE cycles have passed since the stamp. -/
def Obligations.DwellGateNeverOpensEarly : Prop :=
  (∀ (s : State) (now : Word), dwellOk now s = true ↔
    (match s.phase with | .clock => s.cfg.dwellClock | .data => s.cfg.dwellData) ≤ (now - s.phaseStart).toNat) ∧
  (∀ (s : State) (T0 T : Nat), T0 ≤ T → BitVec.ofNat 32 T0 = s.phaseStart → dwellOk (BitVec.ofNat 32 T) s = true →
    (match s.phase with | .clock => s.cfg.dwellClock | .data => s.cfg.dwellData) ≤ T - T0)

/-- DRIVE_MID before the dwell has elapsed takes one sample of `cyc`, returns value 0, and changes nothing
(44_screen_driver.md R207). -/
def Obligations.DriveMidTooEarlyChangesNothing : Prop :=
  ∀ s : State, ¬ Claims.DwellElapsed s →
    exec .driveMid s =
      .next { s with cyc := Claims.cycAfter s, responses := s.responses ++ [⟨.ok, false, 0x00000000#32, 0⟩] }

/-- DRIVE_MID in ClockPhase with the dwell elapsed performs the clock action: CLK rises, LATCH too if IDX = 0, DATA, IDX
and the arrays stay, the phase turns to DataPhase, the sample is the stamp, one pin event, value 1
(44_screen_driver.md R203, R207). -/
def Obligations.DriveMidPerformsTheClockAction : Prop :=
  ∀ s : State, s.phase = .clock → Claims.DwellElapsed s →
    exec .driveMid s = .next { s with
      cyc := Claims.cycAfter s, clk := true, latch := if s.idx = 0 then true else s.latch, phase := .data
      phaseStart := Claims.cycSample s
      pins := s.pins ++ [⟨Claims.cycSample s, true, if s.idx = 0 then true else s.latch, s.data⟩]
      responses := s.responses ++ [⟨.ok, false, 0x00000001#32, 0⟩] }

/-- DRIVE_MID in DataPhase with the dwell elapsed performs the data action without eligibility: CLK and LATCH fall, IDX
advances or wraps to 0, the new line is stepped from the unchanged TGT and its mask put on DATA; no sample of `rtc`, no
flip, LAST_RTC unchanged, value 1 (44_screen_driver.md R204, R207). -/
def Obligations.DriveMidPerformsTheDataAction : Prop :=
  ∀ s : State, s.cur.wf → s.phase = .data → Claims.DwellElapsed s → ∃ t,
    exec .driveMid s = .next t ∧
    t = { s with
      cyc := Claims.cycAfter s, clk := false, latch := false, idx := Claims.nextIdx s, phase := .clock
      phaseStart := Claims.cycSample s, cur := t.cur, data := t.data
      pins := s.pins ++ [⟨Claims.cycSample s, false, false, t.data⟩]
      responses := s.responses ++ [⟨.ok, false, 0x00000001#32, 0⟩] } ∧
    Claims.LineStepped s.cfg t.idx s.tgt s.cur t.cur t.data

/-- DRIVE_POST before the dwell has elapsed waits: one sample of `cyc`, no response, nothing else changes
(44_screen_driver.md R208, 41_delay.md R140). One sample a step is the model's choice (notes/assumptions/4.md). -/
def Obligations.DrivePostWaitsForTheDwell : Prop :=
  ∀ s : State, ¬ Claims.DwellElapsed s →
    exec .drivePost s = .next { s with cyc := Claims.cycAfter s, busy := some .drivePost }

/-- DRIVE_POST with the dwell elapsed and no flip to make goes on (44_screen_driver.md R203, R204, R208): in ClockPhase
the clock action; in DataPhase the data action, at a wrap with one sample of `rtc` whose masked value equals LAST_RTC and
changes nothing (R205), elsewhere with none. No response is returned, and the command is still in progress: that a step is
one round of the loop is the model's choice (notes/assumptions/4.md). -/
def Obligations.DrivePostGoesOnWithoutAFlip : Prop :=
  (∀ s : State, s.phase = .clock → Claims.DwellElapsed s →
    exec .drivePost s = .next { s with
      cyc := Claims.cycAfter s, clk := true, latch := if s.idx = 0 then true else s.latch, phase := .data
      phaseStart := Claims.cycSample s, busy := some .drivePost
      pins := s.pins ++ [⟨Claims.cycSample s, true, if s.idx = 0 then true else s.latch, s.data⟩] }) ∧
  (∀ s : State, s.cur.wf → s.phase = .data → Claims.DwellElapsed s →
    (¬ Claims.AtWrap s ∨ Claims.maskedSample s = s.lastRtc) → ∃ t,
    exec .drivePost s = .next t ∧
    t = { s with
      cyc := Claims.cycAfter s, clk := false, latch := false, idx := Claims.nextIdx s, phase := .clock
      rtc := if s.idx + 1 = s.cfg.shiftCount then Claims.rtcAfter s else s.rtc
      phaseStart := Claims.cycSample s, cur := t.cur, data := t.data, busy := some .drivePost
      pins := s.pins ++ [⟨Claims.cycSample s, false, false, t.data⟩] } ∧
    Claims.LineStepped s.cfg t.idx s.tgt s.cur t.cur t.data)

/-- DRIVE_POST at a wrap whose masked real-time sample differs from LAST_RTC completes: LAST_RTC takes the sample, TGT
becomes BACK, scan line 0 is stepped from the NEW TGT and put on DATA, and the response says flipped
(44_screen_driver.md R204, R205, R208). -/
def Obligations.DrivePostFlipsAndReturnsAtAFrameBoundary : Prop :=
  ∀ s : State, s.cur.wf → s.phase = .data → Claims.DwellElapsed s → Claims.AtWrap s →
    Claims.maskedSample s ≠ s.lastRtc → ∃ t,
    exec .drivePost s = .next t ∧
    t = { s with
      cyc := Claims.cycAfter s, rtc := Claims.rtcAfter s, lastRtc := Claims.maskedSample s, tgt := s.back
      clk := false, latch := false, idx := 0, phase := .clock
      phaseStart := Claims.cycSample s, cur := t.cur, data := t.data, busy := none
      pins := s.pins ++ [⟨Claims.cycSample s, false, false, t.data⟩]
      responses := s.responses ++ [⟨.ok, true, 0, 0⟩] } ∧
    Claims.LineStepped s.cfg 0 s.back s.cur t.cur t.data

/-- A frame flip is signalled exactly when the masked sample differs from the value observed before, and LAST_RTC always
ends as the latest masked sample (44_screen_driver.md R205, R212): in any step without RESET, a response with flipped = 1
is returned exactly if LAST_RTC changes; then TGT is BACK, and LAST_RTC is the masked sample of this step. -/
def Obligations.FlipIsSignalledExactlyOnAChangeOfTheMaskedSample : Prop :=
  ∀ s t : State, s.resetIn = false → step s = .next t →
    ((∃ r, t.responses = s.responses ++ [r] ∧ r.flipped = true) ↔ t.lastRtc ≠ s.lastRtc) ∧
    (t.lastRtc ≠ s.lastRtc → t.tgt = s.back ∧ t.lastRtc = t.rtc.shown &&& s.rtcMask ∧ t.rtc = Claims.rtcAfter s) ∧
    (t.rtc ≠ s.rtc → t.lastRtc = t.rtc.shown &&& s.rtcMask)

/-- From a scan position (PHASE, IDX = i) a DRIVE_POST reaches its first wrap after 2 (SHIFT_COUNT − i) transitions, one
less from DataPhase; if every wait is met at its first sample and the masked sample differs there, it returns after
exactly so many steps, at (ClockPhase, 0) with CLK = LATCH = 0, TGT = BACK, and DATA the bits of scan line 0 computed from
the new TGT (44_screen_driver.md R208). The growths of `cyc` are listed: each is at least both dwells and below 2^32. The
count of transitions is R208's; that each takes one step is the model's choice (notes/assumptions/4.md). -/
def Obligations.DrivePostReturnsAfterTheCountedTransitions : Prop :=
  ∀ (s : State) (rest : List Word) (ds more : List Nat) (N : Nat),
    s.resetIn = false → s.busy = none → s.port = 0x02000000#32 :: rest → s.idx < s.cfg.shiftCount →
    BitVec.ofNat 32 s.cyc.count = s.phaseStart →
    N = 2 * (s.cfg.shiftCount - s.idx) - (if s.phase = .data then 1 else 0) →
    s.cyc.ahead = ds ++ more → ds.length = N →
    (∀ d ∈ ds, s.cfg.dwellClock ≤ d ∧ s.cfg.dwellData ≤ d ∧ d < 2 ^ 32) →
    Claims.maskedSample s ≠ s.lastRtc →
    ∃ t, core.run N s = .next t ∧ t.phase = .clock ∧ t.idx = 0 ∧ t.clk = false ∧ t.latch = false ∧
      t.tgt = s.back ∧ t.back = s.back ∧ t.lastRtc = Claims.maskedSample s ∧ t.busy = none ∧ t.port = rest ∧
      t.responses = s.responses ++ [⟨.ok, true, 0, 0⟩] ∧ t.pins.length = s.pins.length + N ∧
      (∃ cur, t.cur = (pdmLine s.cfg 0 t.tgt cur).1 ∧ t.data = (pdmLine s.cfg 0 t.tgt cur).2)

/-- With RTC_MASK = 0 and LAST_RTC = 0 a DRIVE_POST never returns, however long the block runs: it is always still in
progress, with no response and the same TGT (44_screen_driver.md R216 (a), 70_reset_and_hazards.md R295). -/
def Obligations.DrivePostWithAZeroMaskNeverReturns : Prop :=
  ∀ (k : Nat) (s : State), s.resetIn = false → s.busy = some .drivePost → s.rtcMask = 0#32 → s.lastRtc = 0#32 →
    ∃ t, core.run k s = .next t ∧ t.busy = some .drivePost ∧ t.responses = s.responses ∧ t.tgt = s.tgt

/-- SET_MASK writes RTC_MASK and nothing else (44_screen_driver.md R209). -/
def Obligations.SetMaskWritesOnlyTheMask : Prop :=
  ∀ (s : State) (mask : Word), exec (.setMask mask) s =
    .next { s with rtcMask := mask, responses := s.responses ++ [⟨.ok, false, 0, 0⟩] }

/-- `rate_mask(f)` for powers of two f ≤ RTC_HZ ≤ 2^32, with p = RTC_HZ / f: the masked value of a counter k is the start
of k's period, p · floor(k / p), so it changes exactly once every p ticks (44_screen_driver.md R210, V44.7). -/
def Obligations.RateMaskKeepsThePeriodNumber : Prop :=
  (∀ (a b : Nat) (k : Word), b ≤ a → a ≤ 32 →
    (k &&& rateMask (2 ^ a) (2 ^ b)).toNat = k.toNat / (2 ^ a / 2 ^ b) * (2 ^ a / 2 ^ b)) ∧
  rateMask 32768 32768 = 0xFFFFFFFF#32 ∧ rateMask 32768 1024 = 0xFFFFFFE0#32 ∧ rateMask 32768 64 = 0xFFFFFE00#32 ∧
  rateMask 32768 32 = 0xFFFFFC00#32 ∧ rateMask 32768 1 = 0xFFFF8000#32

/-- Minimum widths, in TRUE cycles, for every interleaving of commands (44_screen_driver.md R217): from a transition on
(the counter showed PHASE_START), CLK high lasts at least DWELL_DATA, CLK low at least DWELL_CLOCK, m whole protocol
cycles at least m × (DWELL_CLOCK + DWELL_DATA), and so a full scan at least SHIFT_COUNT times that. -/
def Obligations.PulseWidthsAreNeverShort : Prop :=
  ∀ (k : Nat) (s t : State), s.Inv → s.resetIn = false → BitVec.ofNat 32 s.cyc.count = s.phaseStart →
    core.run k s = .next t →
    (s.clk = true → t.pins.length = s.pins.length + 1 → s.cyc.count + s.cfg.dwellData ≤ t.cyc.count) ∧
    (s.clk = false → t.pins.length = s.pins.length + 1 → s.cyc.count + s.cfg.dwellClock ≤ t.cyc.count) ∧
    (∀ m, t.pins.length = s.pins.length + 2 * m →
      s.cyc.count + m * (s.cfg.dwellClock + s.cfg.dwellData) ≤ t.cyc.count) ∧
    (t.pins.length = s.pins.length + 2 * s.cfg.shiftCount →
      s.cyc.count + s.cfg.shiftCount * (s.cfg.dwellClock + s.cfg.dwellData) ≤ t.cyc.count)

/-! ### Whole-machine rules -/

/-- The block's invariants hold right after reset, for every legal choice of parameters and every value of the counters,
and so in `State.reset`, whose parameters are the model's choice (notes/assumptions/1.md); so do the laws of the pin trace
(10_state.md R48, R47). -/
def Obligations.ResetMeetsTheInvariants : Prop :=
  (∀ (p : Params) (c r : Counter), p.wf → (State.resetAt p c r).Inv ∧ (State.resetAt p c r).TraceInv) ∧
  State.reset.Inv ∧ State.reset.TraceInv

/-- Every step keeps the invariants (10_state.md R48 (a) to (d), 44_screen_driver.md R214): IDX < SHIFT_COUNT, DATA only on
the lanes, CLK high exactly in DataPhase, LATCH high exactly there with IDX 0; and the arrays' canonical form and shape. -/
def Obligations.StepKeepsTheInvariants : Prop :=
  ∀ s t : State, s.Inv → step s = .next t → t.Inv

/-- Every step keeps the laws of the pin trace (10_state.md R44, 44_screen_driver.md R200, R213, R214, R215, R219). -/
def Obligations.StepKeepsTheTraceLaws : Prop :=
  ∀ s t : State, s.Inv → s.TraceInv → step s = .next t → t.TraceInv

/-- Which command writes which state (10_state.md R49, 20_memory.md R84): BACK only the setters; TGT only a flip, by FLIP
or DRIVE_POST, and it becomes BACK; CUR only the setters and the drives; RTC_MASK only SET_MASK; LAST_RTC and the samples
of `rtc` only DRIVE_POST; the other registers, the latches and the pin trace only the drives; samples of `cyc` only DELAY
and the drives. No command writes the parameters. -/
def Obligations.OnlyTheListedCommandsWrite : Prop :=
  ∀ (i : Instr) (s t : State), exec i s = .next t →
    (t.back ≠ s.back → Claims.IsSetter i) ∧
    (t.tgt ≠ s.tgt → (i = .flip ∨ i = .drivePost) ∧ t.tgt = s.back) ∧
    (t.cur ≠ s.cur → Claims.IsSetter i ∨ Claims.IsDrive i) ∧
    (t.rtcMask ≠ s.rtcMask → ∃ m, i = .setMask m) ∧
    (t.lastRtc ≠ s.lastRtc ∨ t.rtc ≠ s.rtc → i = .drivePost) ∧
    (t.phase ≠ s.phase ∨ t.idx ≠ s.idx ∨ t.phaseStart ≠ s.phaseStart ∨ t.clk ≠ s.clk ∨ t.latch ≠ s.latch ∨
      t.data ≠ s.data ∨ t.pins ≠ s.pins → Claims.IsDrive i) ∧
    (t.cyc ≠ s.cyc → Claims.IsDrive i ∨ ∃ n, i = .delay n) ∧
    t.cfg = s.cfg ∧ t.port = s.port ∧ t.nextWord = s.nextWord ∧ t.resetIn = s.resetIn

/-- The state machine never reads BACK but to flip, so a pixel write is invisible on the pins until a flip
(20_memory.md R83): a DRIVE_MID, and a round of DRIVE_POST that does not flip, do the same whatever BACK holds. And no
command but DRIVE_POST reads `rtc`: each does the same whatever the real-time counter is (60_exceptions.md R256, R262).
That a DRIVE_POST is run in rounds is the model's choice (notes/assumptions/4.md). -/
def Obligations.DrivesIgnoreBackUntilAFlipAndOnlyDrivePostReadsRtc : Prop :=
  (∀ (s : State) (b : Memory), exec .driveMid { s with back := b } =
    Claims.mapNext (fun t => { t with back := b }) (exec .driveMid s)) ∧
  (∀ (s : State) (b : Memory),
    ¬ (Claims.DwellElapsed s ∧ s.phase = .data ∧ Claims.AtWrap s ∧ Claims.maskedSample s ≠ s.lastRtc) →
    exec .drivePost { s with back := b } = Claims.mapNext (fun t => { t with back := b }) (exec .drivePost s)) ∧
  (∀ (i : Instr) (s : State) (c : Counter), i ≠ .drivePost → exec i { s with rtc := c } =
    Claims.mapNext (fun t => { t with rtc := c }) (exec i s))

/-- The law of the input counters: no step makes a true count smaller (10_state.md R45, R46). -/
def Obligations.TrueCountsNeverDecrease : Prop :=
  ∀ s t : State, step s = .next t → s.cyc.count ≤ t.cyc.count ∧ s.rtc.count ≤ t.rtc.count

/-- The state after the reset event: a step with RESET applied, and `State.resetAt`, have every register, latch and array
at its reset value and PHASE_START at a sample of `cyc` (10_state.md R47), the pin trace empty and no command in progress
(70_reset_and_hazards.md R280). `State.reset` is `State.resetAt` of the parameters called T; that choice of parameters, the
last clause, is the model's (notes/assumptions/1.md). -/
def Obligations.ResetPutsEveryStateToItsResetValue : Prop :=
  (∀ s : State, s.resetIn = true → ∃ t, step s = .next t ∧
    t.phase = .clock ∧ t.idx = 0 ∧ t.lastRtc = 0#32 ∧ t.rtcMask = s.cfg.rtcMaskInit ∧
    t.phaseStart = Claims.cycSample s ∧ t.cyc = Claims.cycAfter s ∧ t.clk = false ∧ t.latch = false ∧ t.data = 0#32 ∧
    (∀ a, t.back.readByte a = 0 ∧ t.tgt.readByte a = 0 ∧ t.cur.readByte a = 0) ∧
    t.pins = [] ∧ t.busy = none ∧ t.cfg = s.cfg) ∧
  (∀ (p : Params) (c r : Counter) (t : State), t = State.resetAt p c r →
    t.phase = .clock ∧ t.idx = 0 ∧ t.lastRtc = 0#32 ∧ t.rtcMask = p.rtcMaskInit ∧ t.phaseStart = c.shown ∧
    t.clk = false ∧ t.latch = false ∧ t.data = 0#32 ∧
    (∀ a, t.back.readByte a = 0 ∧ t.tgt.readByte a = 0 ∧ t.cur.readByte a = 0) ∧
    t.pins = [] ∧ t.busy = none ∧ t.cfg = p) ∧
  (∃ c r, State.reset = State.resetAt Params.reference c r)

/-- The first scan after reset (70_reset_and_hazards.md R282): a first DRIVE_MID that advances raises CLK and LATCH with
DATA still 0, so the first word presented to the shift registers is (0, 1, 0); and with the arrays all zero every
`pdm_line` yields 0 and leaves CUR at 0. -/
def Obligations.FirstClockAfterResetPresentsZeros : Prop :=
  (∀ (p : Params) (c r : Counter), Claims.DwellElapsed (State.resetAt p c r) →
    ∃ t, exec .driveMid (State.resetAt p c r) = .next t ∧
      t.pins = [⟨Claims.cycSample (State.resetAt p c r), true, true, 0#32⟩] ∧ shifted t = [(0, true, 0#32)]) ∧
  (∀ (p : Params) (l : Nat), pdmLine p l [] [] = ([], 0#32))
end

