-- ==== Sys2Proof/Laws/Decode.lean ====
section
/-! SUPPORT. The opcode map read back (30_encoding.md R108) and the header's two fields (R100). -/

namespace Sys2Proof

/-- Every operation's opcode names that operation. -/
@[simp] theorem Op.ofCode_code (o : Op) : Op.ofCode o.code = some o := by cases o <;> decide

/-- An opcode names an operation only if it is that operation's. -/
theorem Op.code_of_ofCode {c : BitVec 8} {o : Op} (h : Op.ofCode c = some o) : o.code = c := by
  simpa using List.find?_some h

@[simp] theorem opcode_header (o : Op) (a : BitVec 24) : opcode (header o a) = o.code := by
  unfold opcode header
  ext i hi
  simp only [BitVec.getElem_extractLsb', BitVec.getLsbD_append]
  simp [hi]

@[simp] theorem operand_header (o : Op) (a : BitVec 24) : operand (header o a) = a := by
  unfold operand header
  ext i hi
  simp only [BitVec.getElem_extractLsb', BitVec.getLsbD_append]
  simp [hi]

/-- A header is its two fields. -/
theorem header_of_fields (o : Op) (h : Word) (ho : o.code = opcode h) : header o (operand h) = h := by
  unfold header operand
  rw [ho]
  unfold opcode
  ext i hi
  simp only [BitVec.getElem_append, BitVec.getElem_extractLsb']
  split
  · simp [hi]
  · rename_i h'
    simp [Nat.add_sub_cancel' (Nat.le_of_not_lt h'), hi]

@[simp] theorem requireZero_zero {n : Nat} (i : Instr) : requireZero 0#n i = .ok i := by simp [requireZero]

theorem requireZero_ok {n : Nat} {v : BitVec n} {i j : Instr} (h : requireZero v i = .ok j) : v = 0#n ∧ i = j := by
  unfold requireZero at h
  split at h
  · exact ⟨‹_›, Except.ok.inj h⟩
  · cases h

/-- The header read through the map: a defined opcode with enough words after it. -/
theorem decode_cons {h : Word} {t : List Word} {o : Op} (ho : Op.ofCode (opcode h) = some o)
    (hl : o.words ≤ t.length + 1) :
    decode (h :: t) =
      match decodeOp o h (t.getD 0 0) (t.getD 1 0) with
      | .ok i => .command i o.words
      | .error why => .illegal why o.words := by
  simp only [decode, ho]
  exact if_neg (by omega)

end Sys2Proof
end

