-- ==== Sys2Proof/Laws/Memory.lean ====
section
/-! SUPPORT. The laws of one array: a read after a write, the frame of a write, and that every write keeps the canonical
form and the array's shape. -/

namespace Sys2Proof.Machine.Memory

@[simp] theorem readByte_nil (a : Nat) : Memory.readByte [] a = 0 := rfl

theorem readByte_cons (c : Host.Cell) (m : Memory) (a : Nat) :
    Memory.readByte (c :: m) a = if c.1 = a then c.2 else Memory.readByte m a := rfl

/-- A cell below every listed one, or simply not listed, reads as 0. -/
theorem readByte_unlisted {m : Memory} {a : Nat} (h : ∀ c ∈ m, c.1 ≠ a) : m.readByte a = 0 := by
  induction m with
  | nil => rfl
  | cons c m ih =>
    simp only [readByte_cons, h c List.mem_cons_self, if_false]
    exact ih fun d hd => h d (List.mem_cons_of_mem _ hd)

theorem readByte_insert_self (m : Memory) (a : Nat) (b : Byte) : (m.insert a b).readByte a = b := by
  induction m with
  | nil => simp [insert, readByte_cons]
  | cons c m ih =>
    unfold insert
    split
    · simp [readByte_cons]
    · split
      · simp [readByte_cons]
      · rename_i h
        simp [readByte_cons, h, ih]

theorem readByte_insert_other (m : Memory) {a a' : Nat} (b : Byte) (h : a' ≠ a) :
    (m.insert a b).readByte a' = m.readByte a' := by
  induction m with
  | nil => simp [insert, readByte_cons, Ne.symm h]
  | cons c m ih =>
    unfold insert
    split
    · simp [readByte_cons, Ne.symm h]
    · split
      · rename_i hc
        simp [readByte_cons, hc, Ne.symm h]
      · simp [readByte_cons, ih]

theorem readByte_erase_other (m : Memory) {a a' : Nat} (h : a' ≠ a) :
    (m.erase a).readByte a' = m.readByte a' := by
  induction m with
  | nil => rfl
  | cons c m ih =>
    unfold erase
    split
    · rename_i hc
      simp [readByte_cons, hc, Ne.symm h]
    · simp [readByte_cons, ih]

theorem readByte_erase_self {m : Memory} (hm : m.wf) (a : Nat) : (m.erase a).readByte a = 0 := by
  induction m with
  | nil => rfl
  | cons c m ih =>
    obtain ⟨hp, hz⟩ := hm
    rw [List.pairwise_cons] at hp
    unfold erase
    split
    · rename_i hc
      exact readByte_unlisted fun d hd => by have := hp.1 d hd; omega
    · rename_i hc
      simp only [readByte_cons, hc, if_false]
      exact ih ⟨hp.2, fun d hd => hz d (List.mem_cons_of_mem _ hd)⟩

/-- The byte written is read back. -/
theorem readByte_writeByte_self {m : Memory} (hm : m.wf) (a : Nat) (b : Byte) :
    (m.writeByte a b).readByte a = b := by
  unfold writeByte
  split
  · rename_i h
    rw [readByte_erase_self hm, h]
    rfl
  · exact readByte_insert_self m a b

/-- A write leaves every other cell alone. -/
theorem readByte_writeByte_other (m : Memory) {a a' : Nat} (b : Byte) (h : a' ≠ a) :
    (m.writeByte a b).readByte a' = m.readByte a' := by
  unfold writeByte
  split
  · exact readByte_erase_other m h
  · exact readByte_insert_other m b h

theorem readByte_writeByte {m : Memory} (hm : m.wf) (a a' : Nat) (b : Byte) :
    (m.writeByte a b).readByte a' = if a' = a then b else m.readByte a' := by
  split
  · rename_i h
    rw [h, readByte_writeByte_self hm]
  · rename_i h
    exact readByte_writeByte_other m b h

theorem mem_erase {m : Memory} {a : Nat} {c : Host.Cell} (h : c ∈ m.erase a) : c ∈ m := by
  induction m with
  | nil => exact h
  | cons d m ih =>
    unfold erase at h
    split at h
    · exact List.mem_cons_of_mem _ h
    · rcases List.mem_cons.mp h with h | h
      · exact h ▸ List.mem_cons_self
      · exact List.mem_cons_of_mem _ (ih h)

theorem mem_insert {m : Memory} {a : Nat} {b : Byte} {c : Host.Cell} (h : c ∈ m.insert a b) :
    c = (a, b) ∨ c ∈ m := by
  induction m with
  | nil => exact .inl (by simpa [insert] using h)
  | cons d m ih =>
    unfold insert at h
    split at h
    · exact List.mem_cons.mp h
    · split at h
      · rcases List.mem_cons.mp h with h | h
        · exact .inl h
        · exact .inr (List.mem_cons_of_mem _ h)
      · rcases List.mem_cons.mp h with h | h
        · exact .inr (h ▸ List.mem_cons_self)
        · exact (ih h).imp id (List.mem_cons_of_mem _)

theorem wf_nil : Memory.wf [] := ⟨List.Pairwise.nil, by simp⟩

theorem wf_erase {m : Memory} (hm : m.wf) (a : Nat) : (m.erase a).wf := by
  induction m with
  | nil => exact hm
  | cons c m ih =>
    obtain ⟨hp, hz⟩ := hm
    rw [List.pairwise_cons] at hp
    have hm' : Memory.wf m := ⟨hp.2, fun d hd => hz d (List.mem_cons_of_mem _ hd)⟩
    unfold erase
    split
    · exact hm'
    · refine ⟨List.pairwise_cons.mpr ⟨fun d hd => hp.1 d (mem_erase hd), (ih hm').1⟩, fun d hd => ?_⟩
      rcases List.mem_cons.mp hd with rfl | hd
      · exact hz _ List.mem_cons_self
      · exact (ih hm').2 d hd

theorem wf_insert {m : Memory} (hm : m.wf) (a : Nat) {b : Byte} (hb : b ≠ unlistedByte) : (m.insert a b).wf := by
  induction m with
  | nil => exact ⟨by simp [insert], by simpa [insert] using hb⟩
  | cons c m ih =>
    have hm0 := hm
    obtain ⟨hp, hz⟩ := hm
    rw [List.pairwise_cons] at hp
    have hm' : Memory.wf m := ⟨hp.2, fun d hd => hz d (List.mem_cons_of_mem _ hd)⟩
    unfold insert
    split
    · rename_i hlt
      refine ⟨List.pairwise_cons.mpr ⟨fun d hd => ?_, hm0.1⟩, fun d hd => ?_⟩
      · rcases List.mem_cons.mp hd with rfl | hd
        · exact hlt
        · exact Nat.lt_trans hlt (hp.1 d hd)
      · rcases List.mem_cons.mp hd with rfl | hd
        · exact hb
        · exact hz d hd
    · split
      · rename_i hc
        refine ⟨List.pairwise_cons.mpr ⟨fun d hd => hc ▸ hp.1 d hd, hp.2⟩, fun d hd => ?_⟩
        rcases List.mem_cons.mp hd with rfl | hd
        · exact hb
        · exact hm'.2 d hd
      · refine ⟨List.pairwise_cons.mpr ⟨fun d hd => ?_, (ih hm').1⟩, fun d hd => ?_⟩
        · rcases mem_insert hd with rfl | hd
          · show c.1 < a
            omega
          · exact hp.1 d hd
        · rcases List.mem_cons.mp hd with rfl | hd
          · exact hz _ List.mem_cons_self
          · exact (ih hm').2 d hd

/-- Every write keeps the canonical form. -/
theorem wf_writeByte {m : Memory} (hm : m.wf) (a : Nat) (b : Byte) : (m.writeByte a b).wf := by
  unfold writeByte
  split
  · exact wf_erase hm a
  · rename_i h
    exact wf_insert hm a h

/-- A write inside the array's shape keeps the array inside it. -/
theorem within_writeByte {m : Memory} {n a : Nat} (hm : m.within n) (ha : a < n) (b : Byte) :
    (m.writeByte a b).within n := by
  unfold writeByte
  split
  · exact fun c hc => hm c (mem_erase hc)
  · intro c hc
    rcases mem_insert hc with rfl | hc
    · exact ha
    · exact hm c hc

/-- Outside its shape an array reads as 0. -/
theorem readByte_outside {m : Memory} {n a : Nat} (hm : m.within n) (ha : n ≤ a) : m.readByte a = 0 :=
  readByte_unlisted fun c hc => by have := hm c hc; omega

/-- Two arrays in canonical form that read alike are the same data. -/
theorem ext_readByte {m m' : Memory} (hm : m.wf) (hm' : m'.wf) (h : ∀ a, m.readByte a = m'.readByte a) : m = m' := by
  induction m generalizing m' with
  | nil =>
    cases m' with
    | nil => rfl
    | cons d m' =>
      have := h d.1
      simp only [readByte_nil, readByte_cons, if_true] at this
      exact absurd this.symm (hm'.2 d List.mem_cons_self)
  | cons c m ih =>
    obtain ⟨hp, hz⟩ := hm
    rw [List.pairwise_cons] at hp
    have tail : Memory.wf m := ⟨hp.2, fun d hd => hz d (List.mem_cons_of_mem _ hd)⟩
    cases m' with
    | nil =>
      have := h c.1
      simp only [readByte_nil, readByte_cons, if_true] at this
      exact absurd this (hz c List.mem_cons_self)
    | cons d m' =>
      obtain ⟨hp', hz'⟩ := hm'
      rw [List.pairwise_cons] at hp'
      have tail' : Memory.wf m' := ⟨hp'.2, fun e he => hz' e (List.mem_cons_of_mem _ he)⟩
      have below : ∀ {k : Nat}, k < c.1 → Memory.readByte (c :: m) k = 0 := fun hk =>
        readByte_unlisted fun e he => by
          rcases List.mem_cons.mp he with rfl | he
          · omega
          · have := hp.1 e he
            omega
      have below' : ∀ {k : Nat}, k < d.1 → Memory.readByte (d :: m') k = 0 := fun hk =>
        readByte_unlisted fun e he => by
          rcases List.mem_cons.mp he with rfl | he
          · omega
          · have := hp'.1 e he
            omega
      have key : c.1 = d.1 := by
        rcases Nat.lt_trichotomy c.1 d.1 with hlt | heq | hgt
        · have := h c.1
          rw [below' hlt, readByte_cons, if_pos rfl] at this
          exact absurd this (hz c List.mem_cons_self)
        · exact heq
        · have := h d.1
          rw [below hgt, readByte_cons, if_pos rfl] at this
          exact absurd this.symm (hz' d List.mem_cons_self)
      have val : c.2 = d.2 := by
        have := h c.1
        rwa [readByte_cons, if_pos rfl, readByte_cons, if_pos key.symm] at this
      have rest : m = m' := by
        refine ih tail tail' fun a => ?_
        by_cases ha : c.1 = a
        · rw [readByte_unlisted fun e he => by have := hp.1 e he; omega,
            readByte_unlisted fun e he => by have := hp'.1 e he; omega]
        · have := h a
          rwa [readByte_cons, if_neg ha, readByte_cons, if_neg (key ▸ ha)] at this
      rw [rest, show c = d from Prod.ext key val]

end Sys2Proof.Machine.Memory
end

