-- ==== Sys2Proof/Laws/Operands.lean ====
section
/-! SUPPORT. The laws of the operand forms: cells have distinct numbers inside the arrays (20_memory.md R71, R72), the PDM
sum in numbers (42_pdm.md R150), and one bit of a mask. -/

namespace Sys2Proof.Machine

theorem inRange_iff {p : Params} {x y : Coord} :
    inRange p x y = true ↔ x.toNat < p.width ∧ y.toNat < p.height := by simp [inRange]

/-- Two cells of one array have the same number only if they are the same cell (20_memory.md R72). -/
theorem cellAddr_inj {p : Params} {l l' x x' : Nat} (hx : x < p.width) (hx' : x' < p.width) :
    cellAddr p l x = cellAddr p l' x' ↔ l = l' ∧ x = x' := by
  unfold cellAddr
  constructor
  · intro h
    have hl : l = l' := by
      have := congrArg (· / p.width) h
      simpa [Nat.mul_comm _ p.width, Nat.mul_add_div (Nat.zero_lt_of_lt hx), Nat.div_eq_of_lt hx,
        Nat.div_eq_of_lt hx'] using this
    subst hl
    exact ⟨rfl, by omega⟩
  · rintro ⟨rfl, rfl⟩
    rfl

/-- A cell inside the shape has a number below the array's size (20_memory.md R70). -/
theorem cellAddr_lt {p : Params} {l x : Nat} (hl : l < p.shiftCount) (hx : x < p.width) : cellAddr p l x < p.cells := by
  unfold cellAddr Params.cells
  calc l * p.width + x < l * p.width + p.width := by omega
    _ = (l + 1) * p.width := by ring
    _ ≤ p.shiftCount * p.width := Nat.mul_le_mul_right _ hl

/-- `line` stays below SHIFT_COUNT (20_memory.md R71). -/
theorem line_lt {p : Params} {y c : Nat} (hy : y < p.height) (hc : c < 3) : line y c < p.shiftCount := by
  unfold line Params.shiftCount Params.colorCount
  omega

/-- `line` is injective in the row and the channel (20_memory.md R71). -/
theorem line_inj {y y' c c' : Nat} (hc : c < 3) (hc' : c' < 3) : line y c = line y' c' ↔ y = y' ∧ c = c' := by
  unfold line Params.colorCount
  omega

theorem pulseSum_toNat (cur tgt : Byte) : (pulseSum cur tgt).toNat = cur.toNat + tgt.toNat := by
  unfold pulseSum
  simp only [BitVec.truncate_eq_setWidth, BitVec.toNat_add, BitVec.toNat_setWidth]
  have := cur.isLt
  have := tgt.isLt
  omega

/-- The new accumulator is the sum modulo 256 (42_pdm.md R150). -/
theorem pulseAcc_toNat (cur tgt : Byte) : (pulseAcc cur tgt).toNat = (cur.toNat + tgt.toNat) % 256 := by
  simp [pulseAcc, pulseSum_toNat]

/-- The output bit is 1 exactly when the sum reaches 256 (42_pdm.md R150). -/
theorem pulseBit_iff (cur tgt : Byte) : pulseBit cur tgt = true ↔ 256 ≤ cur.toNat + tgt.toNat := by
  have h := (pulseSum cur tgt).isLt
  rw [pulseSum_toNat] at h
  unfold pulseBit BitVec.getLsbD
  rw [pulseSum_toNat, Nat.testBit_eq_decide_div_mod_eq]
  simp only [decide_eq_true_eq]
  omega

/-- One bit of a mask with one output bit in it. -/
theorem getLsbD_bitAt (b : Bool) (o : Offset) (j : Nat) : (bitAt b o).getLsbD j = (b && decide (o.toNat = j)) := by
  have ho := o.isLt
  unfold bitAt
  cases b
  · simp
  · simp only [if_true, BitVec.getLsbD_shiftLeft, Bool.true_and]
    by_cases h : o.toNat = j
    · subst h
      simp [ho]
    · have : j - o.toNat ≠ 0 ∨ j < o.toNat := by omega
      rcases this with h0 | h0
      · have : (1#32).getLsbD (j - o.toNat) = false := by simp [h0]
        simp [h, this]
      · simp [h, h0]

end Sys2Proof.Machine
end

