-- ==== Sys2Proof/Laws/State.lean ====
section
/-! SUPPORT. One lemma per field per update of State: what each shared operation makes of each field, true by rfl, so that
no later proof unfolds a record update. -/

namespace Sys2Proof.Machine

variable (s : State)

/-! ### Sampling `cyc` -/

@[simp] theorem sampleCyc_cfg : (sampleCyc s).cfg = s.cfg := rfl
@[simp] theorem sampleCyc_phase : (sampleCyc s).phase = s.phase := rfl
@[simp] theorem sampleCyc_idx : (sampleCyc s).idx = s.idx := rfl
@[simp] theorem sampleCyc_lastRtc : (sampleCyc s).lastRtc = s.lastRtc := rfl
@[simp] theorem sampleCyc_rtcMask : (sampleCyc s).rtcMask = s.rtcMask := rfl
@[simp] theorem sampleCyc_phaseStart : (sampleCyc s).phaseStart = s.phaseStart := rfl
@[simp] theorem sampleCyc_clk : (sampleCyc s).clk = s.clk := rfl
@[simp] theorem sampleCyc_latch : (sampleCyc s).latch = s.latch := rfl
@[simp] theorem sampleCyc_data : (sampleCyc s).data = s.data := rfl
@[simp] theorem sampleCyc_back : (sampleCyc s).back = s.back := rfl
@[simp] theorem sampleCyc_tgt : (sampleCyc s).tgt = s.tgt := rfl
@[simp] theorem sampleCyc_cur : (sampleCyc s).cur = s.cur := rfl
@[simp] theorem sampleCyc_busy : (sampleCyc s).busy = s.busy := rfl
@[simp] theorem sampleCyc_port : (sampleCyc s).port = s.port := rfl
@[simp] theorem sampleCyc_nextWord : (sampleCyc s).nextWord = s.nextWord := rfl
@[simp] theorem sampleCyc_resetIn : (sampleCyc s).resetIn = s.resetIn := rfl
@[simp] theorem sampleCyc_responses : (sampleCyc s).responses = s.responses := rfl
@[simp] theorem sampleCyc_pins : (sampleCyc s).pins = s.pins := rfl
@[simp] theorem sampleCyc_cyc : (sampleCyc s).cyc = s.cyc.tick Config.freeCycGrowth := rfl
@[simp] theorem sampleCyc_rtc : (sampleCyc s).rtc = s.rtc := rfl

/-! ### Sampling `rtc` -/

@[simp] theorem sampleRtc_cfg : (sampleRtc s).cfg = s.cfg := rfl
@[simp] theorem sampleRtc_phase : (sampleRtc s).phase = s.phase := rfl
@[simp] theorem sampleRtc_idx : (sampleRtc s).idx = s.idx := rfl
@[simp] theorem sampleRtc_lastRtc : (sampleRtc s).lastRtc = s.lastRtc := rfl
@[simp] theorem sampleRtc_rtcMask : (sampleRtc s).rtcMask = s.rtcMask := rfl
@[simp] theorem sampleRtc_phaseStart : (sampleRtc s).phaseStart = s.phaseStart := rfl
@[simp] theorem sampleRtc_clk : (sampleRtc s).clk = s.clk := rfl
@[simp] theorem sampleRtc_latch : (sampleRtc s).latch = s.latch := rfl
@[simp] theorem sampleRtc_data : (sampleRtc s).data = s.data := rfl
@[simp] theorem sampleRtc_back : (sampleRtc s).back = s.back := rfl
@[simp] theorem sampleRtc_tgt : (sampleRtc s).tgt = s.tgt := rfl
@[simp] theorem sampleRtc_cur : (sampleRtc s).cur = s.cur := rfl
@[simp] theorem sampleRtc_busy : (sampleRtc s).busy = s.busy := rfl
@[simp] theorem sampleRtc_port : (sampleRtc s).port = s.port := rfl
@[simp] theorem sampleRtc_nextWord : (sampleRtc s).nextWord = s.nextWord := rfl
@[simp] theorem sampleRtc_resetIn : (sampleRtc s).resetIn = s.resetIn := rfl
@[simp] theorem sampleRtc_responses : (sampleRtc s).responses = s.responses := rfl
@[simp] theorem sampleRtc_pins : (sampleRtc s).pins = s.pins := rfl
@[simp] theorem sampleRtc_cyc : (sampleRtc s).cyc = s.cyc := rfl
@[simp] theorem sampleRtc_rtc : (sampleRtc s).rtc = s.rtc.tick Config.freeRtcGrowth := rfl

/-! ### Returning a response -/

@[simp] theorem respond_cfg (r : Response) : (respond r s).cfg = s.cfg := rfl
@[simp] theorem respond_phase (r : Response) : (respond r s).phase = s.phase := rfl
@[simp] theorem respond_idx (r : Response) : (respond r s).idx = s.idx := rfl
@[simp] theorem respond_lastRtc (r : Response) : (respond r s).lastRtc = s.lastRtc := rfl
@[simp] theorem respond_rtcMask (r : Response) : (respond r s).rtcMask = s.rtcMask := rfl
@[simp] theorem respond_phaseStart (r : Response) : (respond r s).phaseStart = s.phaseStart := rfl
@[simp] theorem respond_clk (r : Response) : (respond r s).clk = s.clk := rfl
@[simp] theorem respond_latch (r : Response) : (respond r s).latch = s.latch := rfl
@[simp] theorem respond_data (r : Response) : (respond r s).data = s.data := rfl
@[simp] theorem respond_back (r : Response) : (respond r s).back = s.back := rfl
@[simp] theorem respond_tgt (r : Response) : (respond r s).tgt = s.tgt := rfl
@[simp] theorem respond_cur (r : Response) : (respond r s).cur = s.cur := rfl
@[simp] theorem respond_busy (r : Response) : (respond r s).busy = s.busy := rfl
@[simp] theorem respond_port (r : Response) : (respond r s).port = s.port := rfl
@[simp] theorem respond_nextWord (r : Response) : (respond r s).nextWord = s.nextWord := rfl
@[simp] theorem respond_resetIn (r : Response) : (respond r s).resetIn = s.resetIn := rfl
@[simp] theorem respond_responses (r : Response) : (respond r s).responses = s.responses ++ [r] := rfl
@[simp] theorem respond_pins (r : Response) : (respond r s).pins = s.pins := rfl
@[simp] theorem respond_cyc (r : Response) : (respond r s).cyc = s.cyc := rfl
@[simp] theorem respond_rtc (r : Response) : (respond r s).rtc = s.rtc := rfl

/-! ### Consuming words of the port -/

@[simp] theorem consume_cfg (n : Nat) : (consume n s).cfg = s.cfg := rfl
@[simp] theorem consume_phase (n : Nat) : (consume n s).phase = s.phase := rfl
@[simp] theorem consume_idx (n : Nat) : (consume n s).idx = s.idx := rfl
@[simp] theorem consume_lastRtc (n : Nat) : (consume n s).lastRtc = s.lastRtc := rfl
@[simp] theorem consume_rtcMask (n : Nat) : (consume n s).rtcMask = s.rtcMask := rfl
@[simp] theorem consume_phaseStart (n : Nat) : (consume n s).phaseStart = s.phaseStart := rfl
@[simp] theorem consume_clk (n : Nat) : (consume n s).clk = s.clk := rfl
@[simp] theorem consume_latch (n : Nat) : (consume n s).latch = s.latch := rfl
@[simp] theorem consume_data (n : Nat) : (consume n s).data = s.data := rfl
@[simp] theorem consume_back (n : Nat) : (consume n s).back = s.back := rfl
@[simp] theorem consume_tgt (n : Nat) : (consume n s).tgt = s.tgt := rfl
@[simp] theorem consume_cur (n : Nat) : (consume n s).cur = s.cur := rfl
@[simp] theorem consume_busy (n : Nat) : (consume n s).busy = s.busy := rfl
@[simp] theorem consume_port (n : Nat) : (consume n s).port = s.port.drop n := rfl
@[simp] theorem consume_nextWord (n : Nat) : (consume n s).nextWord = s.nextWord + n := rfl
@[simp] theorem consume_resetIn (n : Nat) : (consume n s).resetIn = s.resetIn := rfl
@[simp] theorem consume_responses (n : Nat) : (consume n s).responses = s.responses := rfl
@[simp] theorem consume_pins (n : Nat) : (consume n s).pins = s.pins := rfl
@[simp] theorem consume_cyc (n : Nat) : (consume n s).cyc = s.cyc := rfl
@[simp] theorem consume_rtc (n : Nat) : (consume n s).rtc = s.rtc := rfl

/-! ### A flip -/

@[simp] theorem flipBuffers_cfg : (flipBuffers s).cfg = s.cfg := rfl
@[simp] theorem flipBuffers_phase : (flipBuffers s).phase = s.phase := rfl
@[simp] theorem flipBuffers_idx : (flipBuffers s).idx = s.idx := rfl
@[simp] theorem flipBuffers_lastRtc : (flipBuffers s).lastRtc = s.lastRtc := rfl
@[simp] theorem flipBuffers_rtcMask : (flipBuffers s).rtcMask = s.rtcMask := rfl
@[simp] theorem flipBuffers_phaseStart : (flipBuffers s).phaseStart = s.phaseStart := rfl
@[simp] theorem flipBuffers_clk : (flipBuffers s).clk = s.clk := rfl
@[simp] theorem flipBuffers_latch : (flipBuffers s).latch = s.latch := rfl
@[simp] theorem flipBuffers_data : (flipBuffers s).data = s.data := rfl
@[simp] theorem flipBuffers_back : (flipBuffers s).back = s.back := rfl
@[simp] theorem flipBuffers_tgt : (flipBuffers s).tgt = s.back := rfl
@[simp] theorem flipBuffers_cur : (flipBuffers s).cur = s.cur := rfl
@[simp] theorem flipBuffers_busy : (flipBuffers s).busy = s.busy := rfl
@[simp] theorem flipBuffers_port : (flipBuffers s).port = s.port := rfl
@[simp] theorem flipBuffers_nextWord : (flipBuffers s).nextWord = s.nextWord := rfl
@[simp] theorem flipBuffers_resetIn : (flipBuffers s).resetIn = s.resetIn := rfl
@[simp] theorem flipBuffers_responses : (flipBuffers s).responses = s.responses := rfl
@[simp] theorem flipBuffers_pins : (flipBuffers s).pins = s.pins := rfl
@[simp] theorem flipBuffers_cyc : (flipBuffers s).cyc = s.cyc := rfl
@[simp] theorem flipBuffers_rtc : (flipBuffers s).rtc = s.rtc := rfl

/-! ### A pixel write -/

@[simp] theorem setAdjusted_cfg (x y : Coord) (c : Color) : (setAdjusted x y c s).cfg = s.cfg := rfl
@[simp] theorem setAdjusted_phase (x y : Coord) (c : Color) : (setAdjusted x y c s).phase = s.phase := rfl
@[simp] theorem setAdjusted_idx (x y : Coord) (c : Color) : (setAdjusted x y c s).idx = s.idx := rfl
@[simp] theorem setAdjusted_lastRtc (x y : Coord) (c : Color) : (setAdjusted x y c s).lastRtc = s.lastRtc := rfl
@[simp] theorem setAdjusted_rtcMask (x y : Coord) (c : Color) : (setAdjusted x y c s).rtcMask = s.rtcMask := rfl
@[simp] theorem setAdjusted_phaseStart (x y : Coord) (c : Color) : (setAdjusted x y c s).phaseStart = s.phaseStart := rfl
@[simp] theorem setAdjusted_clk (x y : Coord) (c : Color) : (setAdjusted x y c s).clk = s.clk := rfl
@[simp] theorem setAdjusted_latch (x y : Coord) (c : Color) : (setAdjusted x y c s).latch = s.latch := rfl
@[simp] theorem setAdjusted_data (x y : Coord) (c : Color) : (setAdjusted x y c s).data = s.data := rfl
@[simp] theorem setAdjusted_back (x y : Coord) (c : Color) : (setAdjusted x y c s).back = writePixel s.cfg x y c s.back := rfl
@[simp] theorem setAdjusted_tgt (x y : Coord) (c : Color) : (setAdjusted x y c s).tgt = s.tgt := rfl
@[simp] theorem setAdjusted_cur (x y : Coord) (c : Color) : (setAdjusted x y c s).cur = writePixel s.cfg x y ⟨0, 0, 0⟩ s.cur := rfl
@[simp] theorem setAdjusted_busy (x y : Coord) (c : Color) : (setAdjusted x y c s).busy = s.busy := rfl
@[simp] theorem setAdjusted_port (x y : Coord) (c : Color) : (setAdjusted x y c s).port = s.port := rfl
@[simp] theorem setAdjusted_nextWord (x y : Coord) (c : Color) : (setAdjusted x y c s).nextWord = s.nextWord := rfl
@[simp] theorem setAdjusted_resetIn (x y : Coord) (c : Color) : (setAdjusted x y c s).resetIn = s.resetIn := rfl
@[simp] theorem setAdjusted_responses (x y : Coord) (c : Color) : (setAdjusted x y c s).responses = s.responses := rfl
@[simp] theorem setAdjusted_pins (x y : Coord) (c : Color) : (setAdjusted x y c s).pins = s.pins := rfl
@[simp] theorem setAdjusted_cyc (x y : Coord) (c : Color) : (setAdjusted x y c s).cyc = s.cyc := rfl
@[simp] theorem setAdjusted_rtc (x y : Coord) (c : Color) : (setAdjusted x y c s).rtc = s.rtc := rfl

/-! ### The PDM line step -/

@[simp] theorem pdmStep_cfg : (pdmStep s).cfg = s.cfg := rfl
@[simp] theorem pdmStep_phase : (pdmStep s).phase = s.phase := rfl
@[simp] theorem pdmStep_idx : (pdmStep s).idx = s.idx := rfl
@[simp] theorem pdmStep_lastRtc : (pdmStep s).lastRtc = s.lastRtc := rfl
@[simp] theorem pdmStep_rtcMask : (pdmStep s).rtcMask = s.rtcMask := rfl
@[simp] theorem pdmStep_phaseStart : (pdmStep s).phaseStart = s.phaseStart := rfl
@[simp] theorem pdmStep_clk : (pdmStep s).clk = s.clk := rfl
@[simp] theorem pdmStep_latch : (pdmStep s).latch = s.latch := rfl
@[simp] theorem pdmStep_data : (pdmStep s).data = (pdmLine s.cfg s.idx s.tgt s.cur).2 := rfl
@[simp] theorem pdmStep_back : (pdmStep s).back = s.back := rfl
@[simp] theorem pdmStep_tgt : (pdmStep s).tgt = s.tgt := rfl
@[simp] theorem pdmStep_cur : (pdmStep s).cur = (pdmLine s.cfg s.idx s.tgt s.cur).1 := rfl
@[simp] theorem pdmStep_busy : (pdmStep s).busy = s.busy := rfl
@[simp] theorem pdmStep_port : (pdmStep s).port = s.port := rfl
@[simp] theorem pdmStep_nextWord : (pdmStep s).nextWord = s.nextWord := rfl
@[simp] theorem pdmStep_resetIn : (pdmStep s).resetIn = s.resetIn := rfl
@[simp] theorem pdmStep_responses : (pdmStep s).responses = s.responses := rfl
@[simp] theorem pdmStep_pins : (pdmStep s).pins = s.pins := rfl
@[simp] theorem pdmStep_cyc : (pdmStep s).cyc = s.cyc := rfl
@[simp] theorem pdmStep_rtc : (pdmStep s).rtc = s.rtc := rfl

/-! ### Clearing the pins and advancing IDX -/

@[simp] theorem nextLine_cfg : (nextLine s).cfg = s.cfg := rfl
@[simp] theorem nextLine_phase : (nextLine s).phase = s.phase := rfl
@[simp] theorem nextLine_idx : (nextLine s).idx = if atLastLine s then 0 else s.idx + 1 := rfl
@[simp] theorem nextLine_lastRtc : (nextLine s).lastRtc = s.lastRtc := rfl
@[simp] theorem nextLine_rtcMask : (nextLine s).rtcMask = s.rtcMask := rfl
@[simp] theorem nextLine_phaseStart : (nextLine s).phaseStart = s.phaseStart := rfl
@[simp] theorem nextLine_clk : (nextLine s).clk = false := rfl
@[simp] theorem nextLine_latch : (nextLine s).latch = false := rfl
@[simp] theorem nextLine_data : (nextLine s).data = s.data := rfl
@[simp] theorem nextLine_back : (nextLine s).back = s.back := rfl
@[simp] theorem nextLine_tgt : (nextLine s).tgt = s.tgt := rfl
@[simp] theorem nextLine_cur : (nextLine s).cur = s.cur := rfl
@[simp] theorem nextLine_busy : (nextLine s).busy = s.busy := rfl
@[simp] theorem nextLine_port : (nextLine s).port = s.port := rfl
@[simp] theorem nextLine_nextWord : (nextLine s).nextWord = s.nextWord := rfl
@[simp] theorem nextLine_resetIn : (nextLine s).resetIn = s.resetIn := rfl
@[simp] theorem nextLine_responses : (nextLine s).responses = s.responses := rfl
@[simp] theorem nextLine_pins : (nextLine s).pins = s.pins := rfl
@[simp] theorem nextLine_cyc : (nextLine s).cyc = s.cyc := rfl
@[simp] theorem nextLine_rtc : (nextLine s).rtc = s.rtc := rfl

/-! ### The end of an action -/

@[simp] theorem enterPhase_cfg (ph : Phase) (now : Word) : (enterPhase ph now s).cfg = s.cfg := rfl
@[simp] theorem enterPhase_phase (ph : Phase) (now : Word) : (enterPhase ph now s).phase = ph := rfl
@[simp] theorem enterPhase_idx (ph : Phase) (now : Word) : (enterPhase ph now s).idx = s.idx := rfl
@[simp] theorem enterPhase_lastRtc (ph : Phase) (now : Word) : (enterPhase ph now s).lastRtc = s.lastRtc := rfl
@[simp] theorem enterPhase_rtcMask (ph : Phase) (now : Word) : (enterPhase ph now s).rtcMask = s.rtcMask := rfl
@[simp] theorem enterPhase_phaseStart (ph : Phase) (now : Word) : (enterPhase ph now s).phaseStart = now := rfl
@[simp] theorem enterPhase_clk (ph : Phase) (now : Word) : (enterPhase ph now s).clk = s.clk := rfl
@[simp] theorem enterPhase_latch (ph : Phase) (now : Word) : (enterPhase ph now s).latch = s.latch := rfl
@[simp] theorem enterPhase_data (ph : Phase) (now : Word) : (enterPhase ph now s).data = s.data := rfl
@[simp] theorem enterPhase_back (ph : Phase) (now : Word) : (enterPhase ph now s).back = s.back := rfl
@[simp] theorem enterPhase_tgt (ph : Phase) (now : Word) : (enterPhase ph now s).tgt = s.tgt := rfl
@[simp] theorem enterPhase_cur (ph : Phase) (now : Word) : (enterPhase ph now s).cur = s.cur := rfl
@[simp] theorem enterPhase_busy (ph : Phase) (now : Word) : (enterPhase ph now s).busy = s.busy := rfl
@[simp] theorem enterPhase_port (ph : Phase) (now : Word) : (enterPhase ph now s).port = s.port := rfl
@[simp] theorem enterPhase_nextWord (ph : Phase) (now : Word) : (enterPhase ph now s).nextWord = s.nextWord := rfl
@[simp] theorem enterPhase_resetIn (ph : Phase) (now : Word) : (enterPhase ph now s).resetIn = s.resetIn := rfl
@[simp] theorem enterPhase_responses (ph : Phase) (now : Word) : (enterPhase ph now s).responses = s.responses := rfl
@[simp] theorem enterPhase_pins (ph : Phase) (now : Word) : (enterPhase ph now s).pins = s.pins ++ [⟨now, s.clk, s.latch, s.data⟩] := rfl
@[simp] theorem enterPhase_cyc (ph : Phase) (now : Word) : (enterPhase ph now s).cyc = s.cyc := rfl
@[simp] theorem enterPhase_rtc (ph : Phase) (now : Word) : (enterPhase ph now s).rtc = s.rtc := rfl

/-! ### The clock action -/

@[simp] theorem clockAction_cfg (now : Word) : (clockAction now s).cfg = s.cfg := rfl
@[simp] theorem clockAction_phase (now : Word) : (clockAction now s).phase = .data := rfl
@[simp] theorem clockAction_idx (now : Word) : (clockAction now s).idx = s.idx := rfl
@[simp] theorem clockAction_lastRtc (now : Word) : (clockAction now s).lastRtc = s.lastRtc := rfl
@[simp] theorem clockAction_rtcMask (now : Word) : (clockAction now s).rtcMask = s.rtcMask := rfl
@[simp] theorem clockAction_phaseStart (now : Word) : (clockAction now s).phaseStart = now := rfl
@[simp] theorem clockAction_clk (now : Word) : (clockAction now s).clk = true := rfl
@[simp] theorem clockAction_latch (now : Word) : (clockAction now s).latch = (s.latch || (s.idx == 0)) := rfl
@[simp] theorem clockAction_data (now : Word) : (clockAction now s).data = s.data := rfl
@[simp] theorem clockAction_back (now : Word) : (clockAction now s).back = s.back := rfl
@[simp] theorem clockAction_tgt (now : Word) : (clockAction now s).tgt = s.tgt := rfl
@[simp] theorem clockAction_cur (now : Word) : (clockAction now s).cur = s.cur := rfl
@[simp] theorem clockAction_busy (now : Word) : (clockAction now s).busy = s.busy := rfl
@[simp] theorem clockAction_port (now : Word) : (clockAction now s).port = s.port := rfl
@[simp] theorem clockAction_nextWord (now : Word) : (clockAction now s).nextWord = s.nextWord := rfl
@[simp] theorem clockAction_resetIn (now : Word) : (clockAction now s).resetIn = s.resetIn := rfl
@[simp] theorem clockAction_responses (now : Word) : (clockAction now s).responses = s.responses := rfl
@[simp] theorem clockAction_pins (now : Word) : (clockAction now s).pins = s.pins ++ [⟨now, true, s.latch || (s.idx == 0), s.data⟩] := rfl
@[simp] theorem clockAction_cyc (now : Word) : (clockAction now s).cyc = s.cyc := rfl
@[simp] theorem clockAction_rtc (now : Word) : (clockAction now s).rtc = s.rtc := rfl

end Sys2Proof.Machine
end

