-- ==== Sys2Proof/Laws/Ops.lean ====
section
/-! SUPPORT. What each shared operation does, said once: a pixel write, the PDM line step, the frame check, the data
action, `advance`. -/

namespace Sys2Proof.Machine

/-! ### Pixel writes (43_framebuffer.md R173) -/

/-- The three cells of a pixel on the panel are distinct. -/
theorem pixelCell_inj {p : Params} {x y x' y' : Coord} {c c' : Nat} (h : inRange p x y = true)
    (h' : inRange p x' y' = true) (hc : c < 3) (hc' : c' < 3) :
    pixelCell p x y c = pixelCell p x' y' c' ↔ x = x' ∧ y = y' ∧ c = c' := by
  rw [inRange_iff] at h h'
  unfold pixelCell
  rw [cellAddr_inj h.1 h'.1, line_inj hc hc', ← BitVec.toNat_inj, ← BitVec.toNat_inj]
  tauto

theorem pixelCell_lt {p : Params} {x y : Coord} {c : Nat} (h : inRange p x y = true) (hc : c < 3) :
    pixelCell p x y c < p.cells := by
  rw [inRange_iff] at h
  exact cellAddr_lt (line_lt h.2 hc) h.1

/-- What a pixel write leaves in every cell of the array. -/
theorem readByte_writePixel {p : Params} {x y : Coord} (h : inRange p x y = true) (c : Color) {m : Memory} (hm : m.wf)
    (a : Nat) :
    (writePixel p x y c m).readByte a =
      if a = pixelCell p x y 0 then c.r else if a = pixelCell p x y 1 then c.g
      else if a = pixelCell p x y 2 then c.b else m.readByte a := by
  have e01 : pixelCell p x y 0 ≠ pixelCell p x y 1 := by simp [pixelCell_inj h h]
  have e02 : pixelCell p x y 0 ≠ pixelCell p x y 2 := by simp [pixelCell_inj h h]
  have e12 : pixelCell p x y 1 ≠ pixelCell p x y 2 := by simp [pixelCell_inj h h]
  have w1 := Memory.wf_writeByte hm (pixelCell p x y 0) c.r
  have w2 := Memory.wf_writeByte w1 (pixelCell p x y 1) c.g
  unfold writePixel
  rw [Memory.readByte_writeByte w2, Memory.readByte_writeByte w1, Memory.readByte_writeByte hm]
  split_ifs <;> simp_all

/-- A pixel read back right after it was written is the colour written (43_framebuffer.md R173, R179). -/
theorem readPixel_writePixel {p : Params} {x y : Coord} (h : inRange p x y = true) (c : Color) {m : Memory} (hm : m.wf) :
    readPixel p x y (writePixel p x y c m) = c := by
  simp [readPixel, readByte_writePixel h c hm, pixelCell_inj h h]

theorem wf_writePixel (p : Params) (x y : Coord) (c : Color) {m : Memory} (hm : m.wf) : (writePixel p x y c m).wf :=
  Memory.wf_writeByte (Memory.wf_writeByte (Memory.wf_writeByte hm _ _) _ _) _ _

theorem within_writePixel {p : Params} {x y : Coord} (h : inRange p x y = true) (c : Color) {m : Memory}
    (hm : m.within p.cells) : (writePixel p x y c m).within p.cells :=
  Memory.within_writeByte (Memory.within_writeByte (Memory.within_writeByte hm
    (pixelCell_lt h (by decide)) _) (pixelCell_lt h (by decide)) _) (pixelCell_lt h (by decide)) _

/-! ### The PDM line step (42_pdm.md R155) -/

/-- The columns of a line up to n, stepped. -/
def pdmColumns (p : Params) (l : Nat) (tgt cur : Memory) (n : Nat) : Memory × Word :=
  (List.range n).foldl (pdmColumn p l tgt) (cur, 0)

theorem pdmColumns_zero (p : Params) (l : Nat) (tgt cur : Memory) : pdmColumns p l tgt cur 0 = (cur, 0) := rfl

theorem pdmColumns_succ (p : Params) (l : Nat) (tgt cur : Memory) (n : Nat) :
    pdmColumns p l tgt cur (n + 1) = pdmColumn p l tgt (pdmColumns p l tgt cur n) n := by
  simp [pdmColumns, List.range_succ]

theorem pdmLine_eq (p : Params) (l : Nat) (tgt cur : Memory) : pdmLine p l tgt cur = pdmColumns p l tgt cur p.width := rfl

theorem pdmColumns_wf {p : Params} {l : Nat} {tgt cur : Memory} (hc : cur.wf) (n : Nat) :
    (pdmColumns p l tgt cur n).1.wf := by
  induction n with
  | zero => exact hc
  | succ n ih =>
    rw [pdmColumns_succ]
    exact Memory.wf_writeByte ih _ _

theorem pdmColumns_within {p : Params} {l : Nat} {tgt cur : Memory} (hl : l < p.shiftCount)
    (hc : cur.within p.cells) (n : Nat) (hn : n ≤ p.width) : (pdmColumns p l tgt cur n).1.within p.cells := by
  induction n with
  | zero => exact hc
  | succ n ih =>
    rw [pdmColumns_succ]
    exact Memory.within_writeByte (ih (by omega)) (cellAddr_lt hl (by omega)) _

/-- A cell that is none of the line's first n columns is untouched. -/
theorem pdmColumns_readByte_other {p : Params} {l : Nat} {tgt cur : Memory} (n a : Nat)
    (ha : ∀ x, x < n → a ≠ cellAddr p l x) : (pdmColumns p l tgt cur n).1.readByte a = cur.readByte a := by
  induction n with
  | zero => rfl
  | succ n ih =>
    rw [pdmColumns_succ]
    simp only [pdmColumn]
    rw [Memory.readByte_writeByte_other _ _ (ha n (by omega))]
    exact ih fun x hx => ha x (by omega)

/-- Each of the line's first n columns holds its wrapped sum. -/
theorem pdmColumns_readByte_line {p : Params} {l : Nat} {tgt cur : Memory} (hc : cur.wf) (n : Nat) (hn : n ≤ p.width)
    {x : Nat} (hx : x < n) :
    (pdmColumns p l tgt cur n).1.readByte (cellAddr p l x) =
      pulseAcc (cur.readByte (cellAddr p l x)) (tgt.readByte (cellAddr p l x)) := by
  induction n with
  | zero => omega
  | succ n ih =>
    rw [pdmColumns_succ]
    simp only [pdmColumn]
    by_cases h : x = n
    · subst h
      have := pdmColumns_readByte_other (p := p) (l := l) (tgt := tgt) (cur := cur) x (cellAddr p l x) fun x' hx' => by
        simp [cellAddr_inj (show x < p.width by omega) (show x' < p.width by omega)]
        omega
      rw [Memory.readByte_writeByte_self (pdmColumns_wf hc _), this]
    · rw [Memory.readByte_writeByte_other _ _ (by
        simp [cellAddr_inj (show x < p.width by omega) (show n < p.width by omega), h])]
      exact ih (by omega) (by omega)

/-- A bit of the mask is the carry of some column at that offset. -/
theorem pdmColumns_mask {p : Params} {l : Nat} {tgt cur : Memory} (n : Nat) (hn : n ≤ p.width) (j : Nat) :
    (pdmColumns p l tgt cur n).2.getLsbD j = true ↔
      ∃ x, x < n ∧ (p.offset x).toNat = j ∧
        pulseBit (cur.readByte (cellAddr p l x)) (tgt.readByte (cellAddr p l x)) = true := by
  induction n with
  | zero => simp [pdmColumns_zero]
  | succ n ih =>
    rw [pdmColumns_succ]
    simp only [pdmColumn, BitVec.getLsbD_or, Bool.or_eq_true, getLsbD_bitAt, Bool.and_eq_true, decide_eq_true_eq]
    rw [ih (by omega), pdmColumns_readByte_other n _ fun x hx => by
      simp [cellAddr_inj (show n < p.width by omega) (show x < p.width by omega)]
      omega]
    constructor
    · rintro (⟨x, hx, h⟩ | ⟨hb, ho⟩)
      · exact ⟨x, by omega, h⟩
      · exact ⟨n, by omega, ho, hb⟩
    · rintro ⟨x, hx, ho, hb⟩
      rcases Nat.lt_succ_iff_lt_or_eq.mp hx with h | rfl
      · exact .inl ⟨x, h, ho, hb⟩
      · exact .inr ⟨hb, ho⟩

theorem pdmLine_wf {p : Params} {l : Nat} {tgt cur : Memory} (hc : cur.wf) : (pdmLine p l tgt cur).1.wf :=
  pdmColumns_wf hc _

theorem pdmLine_within {p : Params} {l : Nat} {tgt cur : Memory} (hl : l < p.shiftCount) (hc : cur.within p.cells) :
    (pdmLine p l tgt cur).1.within p.cells := pdmColumns_within hl hc _ (Nat.le_refl _)

/-- Every column of the line holds its wrapped sum. -/
theorem pdmLine_readByte_line {p : Params} {l : Nat} {tgt cur : Memory} (hc : cur.wf) {x : Nat} (hx : x < p.width) :
    (pdmLine p l tgt cur).1.readByte (cellAddr p l x) =
      pulseAcc (cur.readByte (cellAddr p l x)) (tgt.readByte (cellAddr p l x)) :=
  pdmColumns_readByte_line hc _ (Nat.le_refl _) hx

/-- Every cell outside the line is untouched. -/
theorem pdmLine_readByte_other {p : Params} {l : Nat} {tgt cur : Memory} {a : Nat}
    (ha : ∀ x, x < p.width → a ≠ cellAddr p l x) : (pdmLine p l tgt cur).1.readByte a = cur.readByte a :=
  pdmColumns_readByte_other _ a ha

/-- A bit of the mask is the carry of some column at that offset. -/
theorem pdmLine_mask {p : Params} {l : Nat} {tgt cur : Memory} (j : Nat) :
    (pdmLine p l tgt cur).2.getLsbD j = true ↔
      ∃ x, x < p.width ∧ (p.offset x).toNat = j ∧
        pulseBit (cur.readByte (cellAddr p l x)) (tgt.readByte (cellAddr p l x)) = true :=
  pdmColumns_mask _ (Nat.le_refl _) j

/-! ### The frame check and the two actions (44_screen_driver.md R203 to R205) -/

/-- The masked sample the next frame check would see (44_screen_driver.md R205). -/
def nextMasked (s : State) : Word := (s.rtc.tick Config.freeRtcGrowth).shown &&& s.rtcMask

/-- The frame check in one equation: LAST_RTC becomes the masked sample, and TGT becomes BACK exactly if they differed. -/
theorem frameCheck_eq (s : State) :
    frameCheck s =
      ({ s with rtc := s.rtc.tick Config.freeRtcGrowth, lastRtc := nextMasked s,
                tgt := if nextMasked s = s.lastRtc then s.tgt else s.back }, decide (nextMasked s ≠ s.lastRtc)) := by
  change (if nextMasked s = s.lastRtc then (sampleRtc s, false)
    else (flipBuffers { sampleRtc s with lastRtc := nextMasked s }, true)) = _
  by_cases h : nextMasked s = s.lastRtc
  · rw [if_pos h, if_pos h, h]
    simp [sampleRtc]
  · rw [if_neg h, if_neg h]
    simp [h, sampleRtc, flipBuffers]

/-- The data action checks for a frame boundary: an eligible wrap (44_screen_driver.md R204). -/
def checksFrame (eligible : Bool) (s : State) : Bool := atLastLine s && eligible

/-- The data action flips: an eligible wrap whose masked sample differs from LAST_RTC. -/
def flips (eligible : Bool) (s : State) : Bool := checksFrame eligible s && decide (nextMasked s ≠ s.lastRtc)

/-- The state of the data action before its PDM step. -/
def beforePdm (eligible : Bool) (s : State) : State :=
  { s with
    clk := false, latch := false, idx := if atLastLine s then 0 else s.idx + 1
    rtc := if checksFrame eligible s then s.rtc.tick Config.freeRtcGrowth else s.rtc
    lastRtc := if checksFrame eligible s then nextMasked s else s.lastRtc
    tgt := if flips eligible s then s.back else s.tgt }

/-- The data action in one equation. -/
theorem dataAction_eq (now : Word) (eligible : Bool) (s : State) :
    dataAction now eligible s = (enterPhase .clock now (pdmStep (beforePdm eligible s)), flips eligible s) := by
  unfold dataAction
  have hm : nextMasked (nextLine s) = nextMasked s := rfl
  by_cases h : atLastLine s && eligible
  · have hf : flips eligible s = decide (nextMasked s ≠ s.lastRtc) := by simp [flips, checksFrame, h]
    simp only [if_pos h]
    rw [frameCheck_eq, hm]
    unfold beforePdm
    rw [hf]
    simp only [checksFrame, h, if_true, nextLine_lastRtc]
    by_cases hl : nextMasked s = s.lastRtc
    · simp only [hl, ne_eq, not_true_eq_false, decide_false, if_true]
      rfl
    · simp only [hl, ne_eq, not_false_eq_true, decide_true, if_true, if_false]
      rfl
  · have hf : flips eligible s = false := by simp [flips, checksFrame, h]
    have hb : nextLine s = beforePdm eligible s := by
      simp [beforePdm, hf, checksFrame, h, nextLine]
    simp only [if_neg h, hb, hf]

/-- `advance` changes none of these, whichever action it performs. -/
theorem advance_frame (now : Word) (e : Bool) (s : State) :
    (advance now e s).1.cfg = s.cfg ∧ (advance now e s).1.rtcMask = s.rtcMask ∧ (advance now e s).1.back = s.back ∧
    (advance now e s).1.busy = s.busy ∧ (advance now e s).1.port = s.port ∧
    (advance now e s).1.nextWord = s.nextWord ∧ (advance now e s).1.resetIn = s.resetIn ∧
    (advance now e s).1.responses = s.responses ∧ (advance now e s).1.cyc = s.cyc := by
  unfold advance
  cases s.phase
  · simp
  · rw [dataAction_eq]
    simp [beforePdm]

@[simp] theorem advance_cfg (now : Word) (e : Bool) (s : State) : (advance now e s).1.cfg = s.cfg := (advance_frame now e s).1
@[simp] theorem advance_rtcMask (now : Word) (e : Bool) (s : State) : (advance now e s).1.rtcMask = s.rtcMask := (advance_frame now e s).2.1
@[simp] theorem advance_back (now : Word) (e : Bool) (s : State) : (advance now e s).1.back = s.back := (advance_frame now e s).2.2.1
@[simp] theorem advance_busy (now : Word) (e : Bool) (s : State) : (advance now e s).1.busy = s.busy := (advance_frame now e s).2.2.2.1
@[simp] theorem advance_port (now : Word) (e : Bool) (s : State) : (advance now e s).1.port = s.port := (advance_frame now e s).2.2.2.2.1
@[simp] theorem advance_nextWord (now : Word) (e : Bool) (s : State) : (advance now e s).1.nextWord = s.nextWord := (advance_frame now e s).2.2.2.2.2.1
@[simp] theorem advance_resetIn (now : Word) (e : Bool) (s : State) : (advance now e s).1.resetIn = s.resetIn := (advance_frame now e s).2.2.2.2.2.2.1
@[simp] theorem advance_responses (now : Word) (e : Bool) (s : State) : (advance now e s).1.responses = s.responses := (advance_frame now e s).2.2.2.2.2.2.2.1
@[simp] theorem advance_cyc (now : Word) (e : Bool) (s : State) : (advance now e s).1.cyc = s.cyc := (advance_frame now e s).2.2.2.2.2.2.2.2

/-! ### The input counters (10_state.md R45, R46) -/

/-- A true count never decreases. -/
theorem Counter.count_le_tick (f : Nat → Nat) (c : Counter) : c.count ≤ (c.tick f).count := by
  unfold Counter.tick
  cases c.ahead <;> simp

/-- Where the next growth is listed, the sample grows by it. -/
theorem Counter.tick_listed (f : Nat → Nat) (c : Counter) {d : Nat} {ds : List Nat} (h : c.ahead = d :: ds) :
    c.tick f = { c with count := c.count + d, ahead := ds } := by
  unfold Counter.tick
  rw [h]

end Sys2Proof.Machine
end

