-- ==== Sys2Proof/Laws/PerInstr.lean ====
section
/-! SUPPORT. The family Encoded, one lemma for each command: an encoded command has the length its opcode gives it
(30_encoding.md R109), and its header's two fields are its opcode and its operand field (R100). -/

namespace Sys2Proof.Laws.Encoded

/-- The command's words have the length of its opcode, and its header has that opcode and that operand field. -/
def Statement (i : Instr) : Prop :=
  (encode i).length = i.op.words ∧
  ∃ h t, encode i = h :: t ∧ Op.ofCode (opcode h) = some i.op ∧ operand h = i.operandBits

theorem of_length {i : Instr} (h : i.tailWords.length + 1 = i.op.words) : Statement i :=
  ⟨by simpa [encode] using h, _, _, rfl, by simp, by simp⟩

theorem driveMid : Statement .driveMid := of_length rfl
theorem drivePost : Statement .drivePost := of_length rfl
theorem flip : Statement .flip := of_length rfl
theorem set (x y : Coord) (c : Color) : Statement (.set x y c) := of_length rfl
theorem setAdj (x y : Coord) (c : Color) : Statement (.setAdj x y c) := of_length rfl
theorem trySet (x y : Coord) (c : Color) : Statement (.trySet x y c) := of_length rfl
theorem trySetAdj (x y : Coord) (c : Color) : Statement (.trySetAdj x y c) := of_length rfl
theorem pulse (cur tgt : Byte) : Statement (.pulse cur tgt) := of_length rfl
theorem pulse4 (cur4 tgt4 : Word) (o0 o1 o2 o3 : Offset) : Statement (.pulse4 cur4 tgt4 o0 o1 o2 o3) := of_length rfl
theorem setMask (mask : Word) : Statement (.setMask mask) := of_length rfl
theorem delay (n : BitVec 24) : Statement (.delay n) := of_length rfl
theorem peek (x y : Coord) (sel : ArraySel) : Statement (.peek x y sel) := of_length rfl
theorem adjust (c : Color) : Statement (.adjust c) := of_length rfl

end Sys2Proof.Laws.Encoded
end

