-- ==== Sys2Proof/Laws/Step.lean ====
section
/-! SUPPORT. What a command that waits does in one round, what DRIVE_MID does, what a step is, case by case, and runs. -/

namespace Sys2Proof.Machine

/-- The state in which a command has taken its sample of `cyc`. -/
theorem sampleCyc_cycNow (s : State) : (sampleCyc s).cycNow = (s.cyc.tick Config.freeCycGrowth).shown := rfl

/-- Sampling changes nothing the dwell gate looks at (44_screen_driver.md R201). -/
@[simp] theorem dwellOk_sampleCyc (now : Word) (s : State) : dwellOk now (sampleCyc s) = dwellOk now s := rfl

theorem dwellOk_iff (now : Word) (s : State) :
    dwellOk now s = true ↔ dwell s.cfg s.phase ≤ (now - s.phaseStart).toNat := by
  unfold dwellOk elapsed
  exact decide_eq_true_iff

/-- Only a data action can flip (44_screen_driver.md R202 to R204). -/
theorem advance_flipped (now : Word) (e : Bool) (s : State) :
    (advance now e s).2 = (decide (s.phase = .data) && flips e s) := by
  unfold advance
  cases h : s.phase
  · rfl
  · rw [dataAction_eq]
    rfl

theorem advance_clock {now : Word} {e : Bool} {s : State} (h : s.phase = .clock) :
    advance now e s = (clockAction now s, false) := by
  unfold advance
  rw [h]

theorem advance_data {now : Word} {e : Bool} {s : State} (h : s.phase = .data) :
    advance now e s = (enterPhase .clock now (pdmStep (beforePdm e s)), flips e s) := by
  unfold advance
  rw [h]
  exact dataAction_eq now e s

theorem pollDrivePost_waits {s : State} (h : dwellOk (sampleCyc s).cycNow s = false) :
    pollDrivePost s = { sampleCyc s with busy := some .drivePost } := by
  simp [pollDrivePost, h]

theorem pollDrivePost_goes_on {s : State} (h : dwellOk (sampleCyc s).cycNow s = true)
    (hf : (advance (sampleCyc s).cycNow true (sampleCyc s)).2 = false) :
    pollDrivePost s = { (advance (sampleCyc s).cycNow true (sampleCyc s)).1 with busy := some .drivePost } := by
  simp [pollDrivePost, h, hf]

theorem pollDrivePost_returns {s : State} (h : dwellOk (sampleCyc s).cycNow s = true)
    (hf : (advance (sampleCyc s).cycNow true (sampleCyc s)).2 = true) :
    pollDrivePost s =
      respond (okResponse true 0 0) { (advance (sampleCyc s).cycNow true (sampleCyc s)).1 with busy := none } := by
  simp [pollDrivePost, h, hf]

theorem execDriveMid_early {s : State} (h : dwellOk (sampleCyc s).cycNow s = false) :
    execDriveMid s = .next (respond (okResponse false 0 0) (sampleCyc s)) := by
  simp [execDriveMid, h]

theorem execDriveMid_advances {s : State} (h : dwellOk (sampleCyc s).cycNow s = true) :
    execDriveMid s =
      .next (respond (okResponse false 1 0) (advance (sampleCyc s).cycNow false (sampleCyc s)).1) := by
  simp [execDriveMid, h]

theorem pollDelay_waits {n : BitVec 24} {start : Word} {s : State}
    (h : delayOver n start (sampleCyc s).cycNow = false) :
    pollDelay n start s = { sampleCyc s with busy := some (.delay n start) } := by
  simp [pollDelay, h]

theorem pollDelay_returns {n : BitVec 24} {start : Word} {s : State}
    (h : delayOver n start (sampleCyc s).cycNow = true) :
    pollDelay n start s = respond plainOk { sampleCyc s with busy := none } := by
  simp [pollDelay, h]

/-- Modular elapsed time never exceeds the true one (10_state.md R45, 44_screen_driver.md R201). -/
theorem elapsed_le_true {T0 T : Nat} (h : T0 ≤ T) :
    (BitVec.ofNat 32 T - BitVec.ofNat 32 T0).toNat ≤ T - T0 := by
  simp only [BitVec.toNat_sub, BitVec.toNat_ofNat]
  omega

theorem step_reset {s : State} (h : s.resetIn = true) : step s = .next (resetEvent s) := by simp [step, h]

theorem step_busy {s : State} {b : Busy} (h : s.resetIn = false) (hb : s.busy = some b) :
    step s = .next (resume b s) := by simp [step, h, hb]

theorem step_idle {s : State} (h : s.resetIn = false) (hb : s.busy = none) : step s = nextCommand s := by
  simp [step, h, hb]

/-! ### Runs of the machine, one step at a time

`Host.Core.run` speaks of the machine's types through `core`, where a rewrite does not see that they are `State` and
`Refusal`: the lemmas about any machine come first, and those about this one are cases of them. -/

theorem hostRun_next (M : Host.Core) {k : Nat} {s u : M.State} (h : M.step s = .next u) : M.run (k + 1) s = M.run k u := by
  simp only [Host.Core.run, h]

theorem hostRun_refused (M : Host.Core) {k : Nat} {s : M.State} {r : M.Refusal} (h : M.step s = .refused r) :
    M.run (k + 1) s = .refused r := by
  simp only [Host.Core.run, h]

theorem run_zero (s : State) : core.run 0 s = .next s := rfl

/-- A run goes on where its first step goes. -/
theorem run_next {k : Nat} {s u : State} (h : step s = .next u) : core.run (k + 1) s = core.run k u :=
  hostRun_next core h

/-- A run ends at its first refusal. -/
theorem run_refused {k : Nat} {s : State} {r : Refusal} (h : step s = .refused r) :
    core.run (k + 1) s = .refused r := hostRun_refused core h

end Sys2Proof.Machine
end

