-- ==== Sys2Proof/Tests/Slice0.lean ====
section
/-! SUPPORT. The model's own tests and the witnesses of its statements. Every expected result is the spec's:
30_encoding.md R120 and R108, 95_test_vectors.md V30 to V44 and P1 to P4, or the example of the rule named. All states
have the parameters called T (00_scope.md R21), and the coming samples of the counters are listed. -/

namespace Sys2Proof.Tests

open Sys2Proof.Machine

/-- Just after reset at cycle 1000 (95_test_vectors.md, start of part 3), with the growths of the coming samples. -/
def fresh (cyc rtc : List Nat) : State := State.resetAt Params.reference ⟨1000, cyc, 0⟩ ⟨0, rtc, 0⟩

/-- `fresh` with words at the port. -/
def ported (ws : List Word) (cyc rtc : List Nat) : State := { fresh cyc rtc with port := ws }

/-- In DataPhase at IDX l, entered at cycle 1000. -/
def inData (l : Nat) (cyc rtc : List Nat) : State :=
  { fresh cyc rtc with phase := .data, idx := l, clk := true, latch := l == 0 }

/-- What a next state shows; nothing for a fault or a refusal. -/
def look {α : Type} (f : State → α) : Host.Outcome State Fault Refusal → Option α
  | .next t => some (f t)
  | .fault _ => none
  | .refused _ => none

/-- The responses after a command run at `fresh`. -/
def answer (i : Instr) : Option (List Response) := look (·.responses) (exec i (fresh [] []))

/-- The refusal of an outcome. -/
def refusal : Host.Outcome State Fault Refusal → Option Refusal
  | .next _ => none
  | .fault _ => none
  | .refused r => some r

/-! ### Decoding: the fields written out from 30_encoding.md R102 to R108, and the worked words of R120 -/

theorem test_decode_drive_mid : decode [0x01#8 ++ 0#24] = .command .driveMid 1 := by decide
theorem test_decode_drive_post : decode [0x02#8 ++ 0#24] = .command .drivePost 1 := by decide
theorem test_decode_flip : decode [0x03#8 ++ 0#24] = .command .flip 1 := by decide
theorem test_decode_set :
    decode [0x04#8 ++ 1#12 ++ 0#12, 0#8 ++ 0xFF#8 ++ 0x80#8 ++ 0x40#8] = .command (.set 1 0 ⟨0xFF, 0x80, 0x40⟩) 2 := by
  decide
theorem test_decode_set_adj :
    decode [0x05#8 ++ 3#12 ++ 1#12, 0#8 ++ 0x10#8 ++ 0x20#8 ++ 0x30#8] = .command (.setAdj 3 1 ⟨0x10, 0x20, 0x30⟩) 2 := by
  decide
theorem test_decode_try_set :
    decode [0x06#8 ++ 4#12 ++ 0#12, 0x00FFFFFF#32] = .command (.trySet 4 0 ⟨0xFF, 0xFF, 0xFF⟩) 2 := by decide
theorem test_decode_try_set_adj :
    decode [0x07#8 ++ 0xFFF#12 ++ 0#12, 0x00010203#32] = .command (.trySetAdj 0xFFF 0 ⟨1, 2, 3⟩) 2 := by decide
theorem test_decode_pulse : decode [0x08#8 ++ 0#8 ++ 200#8 ++ 100#8] = .command (.pulse 200 100) 1 := by decide
theorem test_decode_pulse4 :
    decode [0x09#8 ++ 0#4 ++ 3#5 ++ 2#5 ++ 1#5 ++ 0#5, 0x00FF80C8#32, 0x01FF8064#32] =
      .command (.pulse4 0x00FF80C8 0x01FF8064 0 1 2 3) 3 := by decide
theorem test_decode_set_mask : decode [0x0A#8 ++ 0#24, 0xFFFFFC00#32] = .command (.setMask 0xFFFFFC00) 2 := by decide
theorem test_decode_delay : decode [0x0B#8 ++ 15#24] = .command (.delay 15) 1 := by decide
theorem test_decode_peek : decode [0x0C#8 ++ 1#12 ++ 0#12, 0#30 ++ 2#2] = .command (.peek 1 0 .cur) 2 := by decide
theorem test_decode_adjust : decode [0x0D#8 ++ 0xFFFFFF#24] = .command (.adjust ⟨0xFF, 0xFF, 0xFF⟩) 1 := by decide

/-- The encoder against R120's words. -/
theorem test_encode_words :
    encode (.setAdj 3 1 ⟨0x10, 0x20, 0x30⟩) = [0x05003001#32, 0x00102030#32] ∧ encode (.pulse 200 100) = [0x0800C864#32] ∧
    encode (.pulse4 0x00FF80C8 0x01FF8064 0 1 2 3) = [0x09018820#32, 0x00FF80C8#32, 0x01FF8064#32] ∧
    encode (.peek 1 0 .cur) = [0x0C001000#32, 0x00000002#32] ∧ encode (.delay 15) = [0x0B00000F#32] ∧
    encode (.setMask 0xFFFFFC00) = [0x0A000000#32, 0xFFFFFC00#32] := by decide

/-- The illegal words of V30, each with its length. -/
theorem test_illegal_words :
    decode [0x0E000000#32] = .illegal .reservedOpcode 1 ∧ decode [0x01000001#32] = .illegal .fieldNotZero 1 ∧
    decode [0x0801C864#32] = .illegal .fieldNotZero 1 ∧
    decode [0x04001000#32, 0x01FF8040#32] = .illegal .fieldNotZero 2 ∧
    decode [0x0C001000#32, 0x00000003#32] = .illegal .reservedSelector 2 ∧
    decode [0x09118820#32, 0#32, 0#32] = .illegal .fieldNotZero 3 ∧
    decode [0x0A000001#32, 0xFFFFFC00#32] = .illegal .fieldNotZero 2 ∧ decode [0x04001000#32] = .incomplete := by decide

/-- A program in the midst of which a command is illegal (P4, steps 1 to 3), and one that ends inside a command. -/
theorem test_parse_program :
    parseProgram [0x00000000#32, 0x0C001000#32, 0x00000003#32, 0x06004000#32, 0x00FFFFFF#32] =
      some [.illegal .reservedOpcode, .illegal .reservedSelector, .command (.trySet 4 0 ⟨0xFF, 0xFF, 0xFF⟩)] ∧
    parseProgram [0x03000000#32, 0x04001000#32] = none := by decide

/-- Bit 0 of a table word is the header's bit 0, and the second word's bits count on from 32. -/
theorem test_decode_table_word :
    decodeTableWord 32 0x0B00000F = some (.delay 15) ∧
    decodeTableWord 64 0x0000000204001000 = some (.set 1 0 ⟨0, 0, 2⟩) ∧
    decodeTableWord 96 0x01FF806400FF80C809018820 = some (.pulse4 0x00FF80C8 0x01FF8064 0 1 2 3) := by decide

/-! ### Well-formedness refuses (30_encoding.md R111, R119; V30) -/

theorem test_wf_set_x : Instr.wf Params.reference (.set 4 0 ⟨0, 0, 0⟩) = false := by decide
theorem test_wf_set_y : Instr.wf Params.reference (.set 0 2 ⟨0, 0, 0⟩) = false := by decide
theorem test_wf_set_adj_x : Instr.wf Params.reference (.setAdj 4 1 ⟨0, 0, 0⟩) = false := by decide
theorem test_wf_set_adj_y : Instr.wf Params.reference (.setAdj 3 2 ⟨0, 0, 0⟩) = false := by decide
theorem test_wf_peek_x : Instr.wf Params.reference (.peek 4 0 .back) = false := by decide
theorem test_wf_peek_y : Instr.wf Params.reference (.peek 0 2 .cur) = false := by decide
theorem test_wf_program : programWf Params.reference [.set 3 1 ⟨0, 0, 0⟩, .setAdj 4 0 ⟨0, 0, 0⟩] = false := by decide
/-- What is on the panel passes; so does a checked setter off it. -/
theorem test_wf_accepts : programWf Params.reference
    [.set 3 1 ⟨0, 0, 0⟩, .setAdj 0 0 ⟨0, 0, 0⟩, .trySet 4 2 ⟨0, 0, 0⟩, .peek 3 1 .tgt] = true := by decide
/-- Parameters outside the table (00_scope.md R13, R14; 93_implementation_defined.md U10) are refused. -/
theorem test_parameters_off : ¬ { Params.reference with off := [0, 1, 1, 3] }.wf := by decide
theorem test_parameters_width : ¬ { Params.reference with width := 33 }.wf := by decide
theorem test_parameters_height : ¬ { Params.reference with height := 0 }.wf := by decide
theorem test_parameters_dwell : ¬ { Params.reference with dwellData := 2 ^ 31 }.wf := by decide
theorem test_parameters_rtc : ¬ { Params.reference with rtcHz := 3 }.wf := by decide
theorem test_parameters_adj : ¬ { Params.reference with adjBlue := ⟨2, 1⟩ }.wf := by decide
theorem test_instantiate :
    State.instantiate { Params.reference with height := 4097 } ⟨0, [], 0⟩ ⟨0, [], 0⟩ = none := by decide

/-! ### One step of each command -/

/-- V40: 0x808080 gives 0x804A35. -/
theorem test_adjust : answer (.adjust ⟨0x80, 0x80, 0x80⟩) = some [⟨.ok, false, 0x00804A35, 0⟩] := by decide
/-- V40: 0x020202 gives 0x020100. -/
theorem test_adjust_small : answer (.adjust ⟨2, 2, 2⟩) = some [⟨.ok, false, 0x00020100, 0⟩] := by decide
/-- V42. -/
theorem test_pulse : answer (.pulse 200 100) = some [⟨.ok, false, 0x0000012C, 0⟩] := by decide
/-- V42: the sum that wraps to 254. -/
theorem test_pulse_wraps : answer (.pulse 255 255) = some [⟨.ok, false, 0x000001FE, 0⟩] := by decide
/-- V42: lanes 1 and 2 share bit 8, lane 3 has no carry. -/
theorem test_pulse4 : answer (.pulse4 0x00FF80C8 0x01FF8064 31 8 8 0) =
    some [⟨.ok, false, 0x01FE002C, 0x80000100⟩] := by decide
/-- V42: no carry between lanes. -/
theorem test_pulse4_lanes : answer (.pulse4 0xFFFFFFFF 0x01010101 4 5 6 7) =
    some [⟨.ok, false, 0x00000000, 0x000000F0⟩] := by decide
/-- V43.1: SET writes lines 0, 1, 2 of column 1, adjusted. -/
theorem test_set : look (fun t => (t.backAt 0 1, t.backAt 1 1, t.backAt 2 1, t.tgt))
    (exec (.set 1 0 ⟨0xFF, 0x80, 0x40⟩) (fresh [] [])) = some (0xFF, 0x4A, 0x1A, []) := by decide
/-- V43.2: row 1 is scan lines 3, 4, 5. -/
theorem test_set_adj : look (fun t => (t.backAt 3 3, t.backAt 4 3, t.backAt 5 3))
    (exec (.setAdj 3 1 ⟨0x10, 0x20, 0x30⟩) (fresh [] [])) = some (0x10, 0x20, 0x30) := by decide
/-- V43.5: the same colour again zeroes the pixel's accumulators. -/
theorem test_set_adj_resets_cur : look (·.cur)
    (exec (.setAdj 0 0 ⟨0x80, 0xFF, 0x01⟩) { fresh [] [] with cur := [(0, 0x80), (1, 7), (4, 0xFE)] }) =
      some [(1, 7)] := by decide
/-- V30, R185: SET at x = WIDTH has no meaning. -/
theorem test_set_off_panel : refusal (exec (.set 4 0 ⟨0xFF, 0xFF, 0xFF⟩) (fresh [] [])) = some .setterOutOfRange := by
  decide
/-- V43.3. -/
theorem test_try_set : look (fun t => (t.backAt 0 0, t.backAt 1 0, t.backAt 2 0))
    (exec (.trySet 0 0 ⟨0xFF, 0xFF, 0xFF⟩) (fresh [] [])) = some (0xFF, 0x93, 0x69) := by decide
/-- V43.3: off the panel nothing changes but the response. -/
theorem test_try_set_off_panel : look id (exec (.trySet 0 2 ⟨1, 2, 3⟩) (fresh [] [])) =
    some { fresh [] [] with responses := [⟨.ok, false, 0, 0⟩] } := by decide
/-- V43.6, the second write. -/
theorem test_try_set_adj : look (·.back) (exec (.trySetAdj 2 0 ⟨0x22, 0x22, 0x22⟩)
    { fresh [] [] with back := [(2, 0x11), (6, 0x11), (10, 0x11)] }) =
      some [(2, 0x22), (6, 0x22), (10, 0x22)] := by decide
/-- V43.3. -/
theorem test_try_set_adj_off_panel : look (·.back) (exec (.trySetAdj 4 1 ⟨1, 2, 3⟩) (fresh [] [])) = some [] := by decide
/-- V43.4. -/
theorem test_flip : look (fun t => (t.tgt, t.back, t.responses))
    (exec .flip { fresh [] [] with back := [(1, 0xFF)], tgt := [(2, 9)] }) =
      some ([(1, 0xFF)], [(1, 0xFF)], [⟨.ok, false, 0, 0⟩]) := by decide
/-- V43.1, after the write: red is line 0, green line 1, blue line 2. -/
theorem test_peek : look (·.responses)
    (exec (.peek 1 0 .back) { fresh [] [] with back := [(1, 0xFF), (5, 0x4A), (9, 0x1A)] }) =
      some [⟨.ok, false, 0x00FF4A1A, 0⟩] := by decide
/-- V30: PEEK at x = WIDTH is illegal. -/
theorem test_peek_off_panel : answer (.peek 4 0 .back) = some [⟨.illegal, false, 0, 0⟩] := by decide
/-- R209. -/
theorem test_set_mask : look (fun t => (t.rtcMask, t.lastRtc)) (exec (.setMask 0xFFFFFC00) (fresh [] [])) =
    some (0xFFFFFC00, 0) := by decide
/-- V41: 14 cycles do not satisfy DELAY 15. -/
theorem test_delay_waits : look (fun t => (t.busy, t.responses)) (exec (.delay 15) (fresh [0, 14] [])) =
    some (some (.delay 15 1000), []) := by decide
/-- V41: across a counter wrap, 0x00000007 satisfies DELAY 15 started at 0xFFFFFFF8. -/
theorem test_delay_over : look (fun t => (t.busy, t.responses))
    (exec (.delay 15) { fresh [] [] with cyc := ⟨0xFFFFFFF0, [8, 15], 0⟩ }) =
      some (none, [⟨.ok, false, 0, 0⟩]) := by decide
/-- P2, step 4: the clock action at 1014. -/
theorem test_drive_mid_clock : look (fun t => (t.phase, t.phaseStart, t.pins, t.responses))
    (exec .driveMid (fresh [14] [])) =
      some (.data, 1014, [⟨1014, true, true, 0⟩], [⟨.ok, false, 1, 0⟩]) := by decide
/-- V44.11: at a wrap IDX becomes 0, no `rtc` sample, TGT unchanged, DATA = pdm_line(0). -/
theorem test_drive_mid_wrap : look (fun t => (t.idx, t.rtc.ahead, t.tgt, t.data))
    (exec .driveMid { inData 5 [15] [0x45] with back := [(0, 9)], tgt := [(0, 0x80)], cur := [(0, 0x80)] }) =
      some (0, [0x45], [(0, 0x80)], 1) := by decide
/-- P3 at stamp 1464: scan line 4 column 2 carries (0xC0 + 0xC0), bit OFF[2]. -/
theorem test_drive_post_data : look (fun t => (t.idx, t.data, t.curAt 4 2, t.busy))
    (exec .drivePost { inData 3 [15] [] with tgt := [(18, 0xC0)], cur := [(18, 0xC0)] }) =
      some (4, 0x4, 0x80, some .drivePost) := by decide
/-- P1, last transition: LAST_RTC = 0x12340, the flip precedes the PDM step of scan line 0. -/
theorem test_drive_post_flip : look (fun t => (t.lastRtc, t.tgt, t.cur, t.responses))
    (exec .drivePost { inData 5 [15] [0x12345] with back := [(1, 0xFF)] }) =
      some (0x00012340, [(1, 0xFF)], [(1, 0xFF)], [⟨.ok, true, 0, 0⟩]) := by decide

/-- V44.5: the frame check's flips and LAST_RTC over the samples 0x0F, 0x10, each from the LAST_RTC before it. -/
theorem test_frame_check :
    (frameCheck (fresh [] [0x0F])).2 = false ∧ (frameCheck (fresh [] [0x10])).2 = true ∧
    (frameCheck (fresh [] [0x10])).1.lastRtc = 0x10 ∧
    (frameCheck { fresh [] [0x45] with lastRtc := 0x20 }).1.lastRtc = 0x40 := by decide

/-- V44.1 to V44.4: the dwell gate, across a counter wrap and after a long absence. -/
theorem test_dwell_gate :
    dwellOk 1013 (fresh [] []) = false ∧ dwellOk 1014 (fresh [] []) = true ∧ dwellOk 0xFFFFFFFF (fresh [] []) = true ∧
    dwellOk 1014 (inData 0 [] []) = false ∧ dwellOk 1015 (inData 0 [] []) = true ∧
    dwellOk 5 { fresh [] [] with phaseStart := 0xFFFFFFF8 } = false ∧
    dwellOk 6 { fresh [] [] with phaseStart := 0xFFFFFFF8 } = true ∧
    dwellOk (BitVec.ofNat 32 (2 ^ 32 + 1005)) (fresh [] []) = false := by decide

/-- V44.7 and V41: the helper functions of the pseudo-commands; and a line of text. -/
theorem test_assembler :
    (Pseudo.setRate 32).expand Params.reference = some (.setMask 0xFFFFFC00) ∧
    (Pseudo.setRate 3).expand Params.reference = none ∧ (Pseudo.setRate 65536).expand Params.reference = none ∧
    (Pseudo.delayNs 22).expand Params.reference = some (.delay 14) ∧
    (Pseudo.delayNs 25).expand Params.reference = some (.delay 15) ∧
    assemble Params.reference ⟨"PULSE", [.num 200, .num 100]⟩ = some (.pulse 200 100) ∧
    assemble Params.reference ⟨"PULSE", [.num 256, .num 100]⟩ = none := by decide

/-- The first twelve outputs for targets 85 and 254 (S2) as counts: the first 1 of 85 is at step 4, of 254 at step 2. -/
theorem test_pulse_run : (pulseRun 85 3 0).1 = 0 ∧ (pulseRun 85 4 0).1 = 1 ∧ (pulseRun 254 1 0).1 = 0 ∧
    (pulseRun 254 12 0).1 = 11 ∧ pulseRun 128 2 200 = (1, 200) := by decide

/-- SHIFTED of the first three events of P2. -/
theorem test_shifted : shifted { fresh [] [] with
    pins := [⟨1014, true, true, 0⟩, ⟨1029, false, false, 0⟩, ⟨1043, true, false, 0⟩] } =
      [(0, true, 0), (1, false, 0)] := by decide

/-! ### One step of the machine -/

/-- P4, step 1: the all-zero word is answered ILLEGAL, its one word consumed. -/
theorem test_step_illegal : look id (step (ported [0x00000000#32, 0x03000000#32] [] [])) =
    some { ported [0x03000000#32] [] [] with nextWord := 1, responses := [⟨.illegal, false, 0, 0⟩] } := by decide
/-- V30: a list that ends inside a command. -/
theorem test_step_incomplete : refusal (step (ported [0x04001000#32] [] [])) = some .incompleteCommand := by decide
/-- R281: no command, no change. -/
theorem test_step_waits : look id (step (fresh [] [])) = some (fresh [] []) := by decide
/-- R280: RESET cuts a DRIVE_POST short. -/
theorem test_step_reset : look (fun t => (t.busy, t.idx, t.phaseStart, t.back))
    (step { inData 3 [7] [] with resetIn := true, busy := some .drivePost, back := [(0, 1)] }) =
      some (none, 0, 1007, []) := by decide
/-- A word placed after reset is run by the very next step. -/
theorem test_fetch_word : look (·.responses) (step (State.reset.withFetchWord 32 0x0800C864)) =
    some [⟨.ok, false, 0x0000012C, 0⟩] := by decide

/-! ### Witnesses: a state and operands that meet each statement's hypotheses -/

/-- The invariants hold in `fresh`, so the statements from `State.Inv` and `State.TraceInv` on speak of something. -/
theorem witness_inv (cyc rtc : List Nat) : (fresh cyc rtc).Inv where
  cfg_wf := by show Params.reference.wf; decide
  idx_lt := by show 0 < Params.reference.shiftCount; decide
  data_lanes := fun j _ => by show (0#32).getLsbD j = false; simp
  clk_phase := by show false = true ↔ Phase.clock = .data; decide
  latch_first := by show false = true ↔ false = true ∧ (0 : Nat) = 0; decide
  back_wf := by show Memory.wf []; decide
  tgt_wf := by show Memory.wf []; decide
  cur_wf := by show Memory.wf []; decide
  back_in := fun _ hc => by cases hc
  tgt_in := fun _ hc => by cases hc
  cur_in := fun _ hc => by cases hc

/-- The same with words at the port. -/
theorem witness_inv_ported (ws : List Word) (cyc rtc : List Nat) : (ported ws cyc rtc).Inv :=
  let h := witness_inv cyc rtc
  ⟨h.cfg_wf, h.idx_lt, h.data_lanes, h.clk_phase, h.latch_first, h.back_wf, h.tgt_wf, h.cur_wf, h.back_in, h.tgt_in,
    h.cur_in⟩

/-- A state in which CLK is high meets the invariants. -/
theorem witness_inv_data (cyc rtc : List Nat) : ({ inData 0 cyc rtc with port := [0x01000000#32] } : State).Inv :=
  let h := witness_inv cyc rtc
  { cfg_wf := h.cfg_wf
    idx_lt := h.idx_lt
    data_lanes := h.data_lanes
    clk_phase := by show true = true ↔ Phase.data = .data; decide
    latch_first := by show true = true ↔ true = true ∧ (0 : Nat) = 0; decide
    back_wf := h.back_wf
    tgt_wf := h.tgt_wf
    cur_wf := h.cur_wf
    back_in := h.back_in
    tgt_in := h.tgt_in
    cur_in := h.cur_in }

theorem witness_trace_inv (ws : List Word) (cyc rtc : List Nat) : (ported ws cyc rtc).TraceInv where
  last := fun _ h => by cases h
  alternates := fun k _ h => by simp [ported, fresh, State.resetAt] at h
  parity := by show Phase.clock = .data ↔ 0 % 2 = 1; decide
  position := rfl
  stable := fun k _ _ h => by simp [ported, fresh, State.resetAt] at h
  latched := fun _ h => by cases h

/-- DecodeOfEncodeIsTheCommand has no hypothesis; EncodeOfDecodeIsTheWords: words longer than the command. -/
theorem witness_encode_of_decode : decode [0x0C001000#32, 0x00000002#32, 0x03000000#32] = .command (.peek 1 0 .cur) 2 := by
  decide

/-- ReservedOpcodeIsIllegalOfOneWord at the ends of its ranges, and the legal opcodes beside them. -/
theorem witness_reserved_opcode : opcode 0x00FFFFFF#32 = 0x00#8 ∧ 0x0E ≤ (opcode 0x0E000000#32).toNat ∧
    0x0E ≤ (opcode 0xFFFFFFFF#32).toNat ∧ opcode 0x01000000#32 ≠ 0x00#8 ∧ ¬ 0x0E ≤ (opcode 0x0D000000#32).toNat := by
  decide

/-- BadFieldsAnswerIllegal: the seven kinds of bad field, at the lowest bit or the first value that is bad. -/
theorem witness_bad_fields :
    Claims.BadFields Params.reference .driveMid 0x01000001#32 0 ∧
    Claims.BadFields Params.reference .setMask 0x0A000001#32 0 ∧
    Claims.BadFields Params.reference .pulse 0x0801C864#32 0 ∧
    Claims.BadFields Params.reference .pulse4 0x09118820#32 0 ∧
    Claims.BadFields Params.reference .set 0x04001000#32 0x01FF8040#32 ∧
    Claims.BadFields Params.reference .peek 0x0C001000#32 0x00000004#32 ∧
    Claims.BadFields Params.reference .peek 0x0C001000#32 0x00000003#32 ∧
    Claims.BadFields Params.reference .peek 0x0C004000#32 0 ∧
    Claims.BadFields Params.reference .peek 0x0C000002#32 0 ∧
    ¬ Claims.BadFields Params.reference .peek 0x0C003001#32 0x00000002#32 := by
  refine ⟨?_, ?_, ?_, ?_, ?_, ?_, ?_, ?_, ?_, ?_⟩ <;> unfold Claims.BadFields <;> decide

/-- All its hypotheses together, for a PEEK with the reserved selector. -/
theorem witness_bad_fields_state :
    let s := ported [0x0C001000#32, 0x00000003#32] [] []
    s.resetIn = false ∧ s.busy = none ∧ s.port = 0x0C001000#32 :: [0x00000003#32] ∧
    Op.ofCode (opcode 0x0C001000#32) = some .peek ∧ Op.peek.words ≤ [0x00000003#32].length + 1 ∧
    Claims.BadFields s.cfg .peek 0x0C001000#32 ([0x00000003#32].getD 0 0) := by
  unfold Claims.BadFields
  decide

/-- IllegalCommandOnlyAnswers: an illegal command at the port, and a PEEK one off the panel in either direction. -/
theorem witness_illegal : decode (ported [0xFFFFFFFF#32] [] []).port = .illegal .reservedOpcode 1 ∧
    (ported [0xFFFFFFFF#32] [] []).resetIn = false ∧ (ported [0xFFFFFFFF#32] [] []).busy = none := by decide

/-- The coordinates just off and just on the panel (UncheckedSetterOffThePanelIsRefused, CheckedEqualsUncheckedOnThePanel,
the four setters, the PEEK statements). -/
theorem witness_panel_edge :
    ¬ ((4 : Coord).toNat < Params.reference.width ∧ (0 : Coord).toNat < Params.reference.height) ∧
    ¬ ((3 : Coord).toNat < Params.reference.width ∧ (2 : Coord).toNat < Params.reference.height) ∧
    (3 : Coord).toNat < Params.reference.width ∧ (1 : Coord).toNat < Params.reference.height ∧
    (fresh [] []).back.wf ∧ (fresh [] []).cur.wf := by decide

/-- PseudoInstructionsExpandToOneCommand: the least and the greatest rate; a delay that fits and one that does not. -/
theorem witness_pseudo : 2 ^ 0 ≤ Params.reference.rtcHz ∧ 2 ^ 15 ≤ Params.reference.rtcHz ∧
    (22 * Params.reference.fCpu ≤ 14 * 10 ^ 9 ∧ (∀ m, 22 * Params.reference.fCpu ≤ m * 10 ^ 9 → 14 ≤ m) ∧ 14 ≤ 16777215) ∧
    (27962027 * Params.reference.fCpu ≤ 16777217 * 10 ^ 9 ∧
      (∀ m, 27962027 * Params.reference.fCpu ≤ m * 10 ^ 9 → 16777217 ≤ m) ∧ 16777215 < 16777217) := by
  refine ⟨by decide, by decide, ⟨by decide, fun m h => ?_, by decide⟩, by decide, fun m h => ?_, by decide⟩
  · change 22 * 600000000 ≤ m * 10 ^ 9 at h
    omega
  · change 27962027 * 600000000 ≤ m * 10 ^ 9 at h
    omega

/-- StepRunsTheDecodedCommand, StepIsRefusedExactlyWithoutHostDuty (its first clause). -/
theorem witness_step : (ported [0x0B00000F#32] [] []).resetIn = false ∧ (ported [0x0B00000F#32] [] []).busy = none ∧
    decode (ported [0x0B00000F#32] [] []).port = .command (.delay 15) 1 := by decide

/-- StepWithoutACommandWaitsOrGoesOn, one for each clause. -/
theorem witness_step_without : ((fresh [] []).resetIn = false ∧ (fresh [] []).busy = none ∧ (fresh [] []).port = []) ∧
    ((ported [0x04001000#32] [] []).resetIn = false ∧ (ported [0x04001000#32] [] []).busy = none ∧
      (ported [0x04001000#32] [] []).port = 0x04001000#32 :: [] ∧
      Op.ofCode (opcode 0x04001000#32) = some .set ∧ ([] : List Word).length + 1 < Op.set.words) ∧
    ({ fresh [] [] with busy := some .drivePost } : State).resetIn = false ∧
    ({ fresh [] [] with busy := some .drivePost } : State).busy = some .drivePost := by decide

/-- HostDuty holds of a legal command, and fails of a SET off the panel and of a list cut short. -/
theorem witness_host_duty : HostDuty (ported [0x03000000#32] [] []) ∧
    ¬ HostDuty (ported [0x04004000#32, 0#32] [] []) ∧ ¬ HostDuty (ported [0x04001000#32] [] []) := by
  refine ⟨⟨by decide, fun n x y c h => ?_⟩, fun h => ?_, fun h => h.1 (by decide)⟩
  · have e : decode (ported [0x03000000#32] [] []).port = .command .flip 1 := by decide
    rw [e] at h
    rcases h with h | h <;> cases h
  · exact absurd (h.2 2 4 0 ⟨0, 0, 0⟩ (.inl (by decide))) (by decide)

/-- AdjustReturnsTheScaledChannels, DefaultAdjustLaws. -/
theorem witness_adjust : (fresh [] []).cfg.wf ∧ Claims.DefaultAdj Params.reference := by
  refine ⟨?_, rfl, rfl, rfl⟩
  show Params.reference.wf
  decide

/-- DelayReturnsOnceTheCyclesHavePassed and DelayWaitsUntilTheCyclesHavePassed at the boundary: 15 and 14 cycles. -/
theorem witness_delay :
    (15 : BitVec 24).toNat ≤ (((Claims.cycAfter (fresh [0, 15] [])).tick Config.freeCycGrowth).shown -
      (Claims.cycAfter (fresh [0, 15] [])).shown).toNat ∧
    (((Claims.cycAfter (fresh [0, 14] [])).tick Config.freeCycGrowth).shown -
      (Claims.cycAfter (fresh [0, 14] [])).shown).toNat < (15 : BitVec 24).toNat ∧
    (Claims.cycSample { fresh [14] [] with busy := some (.delay 15 1000) } - 1000).toNat < (15 : BitVec 24).toNat ∧
    (15 : BitVec 24).toNat ≤ (Claims.cycSample { fresh [15] [] with busy := some (.delay 15 1000) } - 1000).toNat := by
  decide

/-- DelayLastsAtLeastItsTrueCycles: a DELAY 15 that returns at the second sample it looks at. -/
theorem witness_delay_lasts : (fresh [0, 14, 1] []).resetIn = false ∧
    ∃ u t, exec (.delay 15) (fresh [0, 14, 1] []) = .next u ∧ core.run 1 u = .next t ∧
      (fresh [0, 14, 1] []).responses.length < t.responses.length := ⟨rfl, _, _, rfl, rfl, by decide⟩

/-- PulseRunHasNoLongBurst, at both ends of its range. -/
theorem witness_target : (1 : Byte) ≠ 0 ∧ (255 : Byte) ≠ 0 := by decide

/-- LineStepGivesEachColumnItsCarry, LaneShowsTheExactDutyCount, BatchedLineStepEqualsTheScalarOne: the last line and
column of a panel. -/
theorem witness_line : Params.reference.wf ∧ 5 < Params.reference.shiftCount ∧ 3 < Params.reference.width ∧
    Memory.wf [(23, 0x80)] ∧ Params.reference.width % 4 = 0 := by decide

/-- LineIsABijection at the last row and channel, and at the last line. -/
theorem witness_line_index : 1 < Params.reference.height ∧ 2 < 3 ∧ 5 < Params.reference.shiftCount := by decide

/-- PeekReturnsThePixelOfTheSelectedArray, the reserved selector. -/
theorem witness_selector : Op.ofCode (opcode 0x0C001000#32) = some .peek ∧ (0x00000003#32).extractLsb' 0 2 = 3#2 := by
  decide

/-- DwellGateNeverOpensEarly: a gate that is open. -/
theorem witness_gate : 1000 ≤ 1014 ∧ BitVec.ofNat 32 1000 = (fresh [] []).phaseStart ∧
    dwellOk (BitVec.ofNat 32 1014) (fresh [] []) = true := by decide

/-- DriveMidTooEarlyChangesNothing, DrivePostWaitsForTheDwell: one cycle short in either phase. -/
theorem witness_early : ¬ Claims.DwellElapsed (fresh [13] []) ∧ ¬ Claims.DwellElapsed (inData 0 [14] []) :=
  ⟨show ¬ 14 ≤ (Claims.cycSample (fresh [13] []) - 1000#32).toNat by decide,
    show ¬ 15 ≤ (Claims.cycSample (inData 0 [14] []) - 1000#32).toNat by decide⟩

/-- DriveMidPerformsTheClockAction, DrivePostGoesOnWithoutAFlip (first clause): the dwell exactly. -/
theorem witness_clock : (fresh [14] []).phase = .clock ∧ Claims.DwellElapsed (fresh [14] []) :=
  ⟨rfl, show 14 ≤ (Claims.cycSample (fresh [14] []) - 1000#32).toNat by decide⟩

/-- DriveMidPerformsTheDataAction, DrivePostGoesOnWithoutAFlip (second clause, no wrap). -/
theorem witness_data : (inData 4 [15] []).cur.wf ∧ (inData 4 [15] []).phase = .data ∧
    Claims.DwellElapsed (inData 4 [15] []) ∧ ¬ Claims.AtWrap (inData 4 [15] []) :=
  ⟨by decide, rfl, show 15 ≤ (Claims.cycSample (inData 4 [15] []) - 1000#32).toNat by decide,
    show ¬ 4 + 1 = Params.reference.shiftCount by decide⟩

/-- DrivePostGoesOnWithoutAFlip (a wrap in the period LAST_RTC holds) and DrivePostFlipsAndReturnsAtAFrameBoundary (one
tick later). -/
theorem witness_wrap : (∀ k, (inData 5 [15] [k]).cur.wf ∧ (inData 5 [15] [k]).phase = .data) ∧
    Claims.DwellElapsed (inData 5 [15] [0x0F]) ∧ Claims.AtWrap (inData 5 [15] [0x0F]) ∧
    Claims.maskedSample (inData 5 [15] [0x0F]) = (inData 5 [15] [0x0F]).lastRtc ∧
    Claims.DwellElapsed (inData 5 [15] [0x10]) ∧ Claims.AtWrap (inData 5 [15] [0x10]) ∧
    Claims.maskedSample (inData 5 [15] [0x10]) ≠ (inData 5 [15] [0x10]).lastRtc :=
  ⟨fun _ => ⟨show Memory.wf [] by decide, rfl⟩, show 15 ≤ (Claims.cycSample (inData 5 [15] [0x0F]) - 1000#32).toNat by decide,
    show 5 + 1 = Params.reference.shiftCount by decide, by decide,
    show 15 ≤ (Claims.cycSample (inData 5 [15] [0x10]) - 1000#32).toNat by decide,
    show 5 + 1 = Params.reference.shiftCount by decide, by decide⟩

/-- FlipIsSignalledExactlyOnAChangeOfTheMaskedSample: a step that flips, and one that samples `rtc` and does not. -/
theorem witness_flip_signal : (inData 5 [15] [0x10]).resetIn = false ∧
    (∃ t, step { inData 5 [15] [0x10] with busy := some .drivePost } = .next t ∧
      t.responses = [⟨.ok, true, 0, 0⟩] ∧ t.lastRtc ≠ 0#32) ∧
    (∃ t, step { inData 5 [15] [0x0F] with busy := some .drivePost } = .next t ∧ t.responses = [] ∧
      t.rtc ≠ ⟨0, [0x0F], 0⟩) :=
  ⟨rfl, ⟨_, rfl, by decide, by decide⟩, ⟨_, rfl, by decide, by decide⟩⟩

/-- DrivePostReturnsAfterTheCountedTransitions: one transition from (DataPhase, 5), two from (ClockPhase, 5) (V44.9). -/
theorem witness_counted :
    (let s : State := { inData 5 [15] [0x10] with port := [0x02000000#32] };
      s.resetIn = false ∧ s.busy = none ∧ s.port = 0x02000000#32 :: [] ∧ s.idx < s.cfg.shiftCount ∧
      BitVec.ofNat 32 s.cyc.count = s.phaseStart ∧
      1 = 2 * (s.cfg.shiftCount - s.idx) - (if s.phase = .data then 1 else 0) ∧ s.cyc.ahead = [15] ++ [] ∧
      (∀ d ∈ [15], s.cfg.dwellClock ≤ d ∧ s.cfg.dwellData ≤ d ∧ d < 2 ^ 32) ∧ Claims.maskedSample s ≠ s.lastRtc) ∧
    (let s : State := { ported [0x02000000#32] [20, 15] [0x10] with idx := 5 };
      s.idx < s.cfg.shiftCount ∧ 2 = 2 * (s.cfg.shiftCount - s.idx) - (if s.phase = .data then 1 else 0) ∧
      s.cyc.ahead = [20, 15] ++ [] ∧ (∀ d ∈ [20, 15], s.cfg.dwellClock ≤ d ∧ s.cfg.dwellData ≤ d ∧ d < 2 ^ 32)) := by
  decide

/-- DrivePostWithAZeroMaskNeverReturns. -/
theorem witness_zero_mask : let s : State := { fresh [] [] with busy := some .drivePost, rtcMask := 0 };
    s.resetIn = false ∧ s.busy = some .drivePost ∧ s.rtcMask = 0#32 ∧ s.lastRtc = 0#32 := by decide

/-- RateMaskKeepsThePeriodNumber at its ends: RTC_HZ of 2^32 with f = 1, and f = RTC_HZ. -/
theorem witness_rate : 0 ≤ 32 ∧ 32 ≤ 32 ∧ rateMask (2 ^ 32) (2 ^ 0) = 0 ∧ rateMask (2 ^ 15) (2 ^ 15) = 0xFFFFFFFF := by
  decide

/-- PulseWidthsAreNeverShort, its clauses on CLK high and on CLK low, each at the exact dwell. -/
theorem witness_pulse_width :
    (let s : State := { inData 0 [15] [] with port := [0x01000000#32] };
      s.Inv ∧ s.resetIn = false ∧ BitVec.ofNat 32 s.cyc.count = s.phaseStart ∧ s.clk = true ∧
      ∃ t, core.run 1 s = .next t ∧ t.pins.length = s.pins.length + 1) ∧
    (let s : State := ported [0x01000000#32] [14] [];
      s.Inv ∧ s.resetIn = false ∧ BitVec.ofNat 32 s.cyc.count = s.phaseStart ∧ s.clk = false ∧
      ∃ t, core.run 1 s = .next t ∧ t.pins.length = s.pins.length + 1) :=
  ⟨⟨witness_inv_data _ _, rfl, by decide, rfl, _, rfl, by decide⟩,
    ⟨witness_inv_ported _ _ _, rfl, by decide, rfl, _, rfl, by decide⟩⟩

/-- A panel of one pixel: three scan lines. -/
def onePixel : Params := { Params.reference with width := 1, height := 1, off := [0] }

/-- A state of that panel meets the invariants. -/
theorem witness_inv_one_pixel : ({ ported [0x02000000#32] [14, 15, 14, 15, 14, 15] [0x10] with cfg := onePixel } : State).Inv :=
  let h := witness_inv_ported [0x02000000#32] [14, 15, 14, 15, 14, 15] [0x10]
  { cfg_wf := by show onePixel.wf; decide
    idx_lt := by show 0 < onePixel.shiftCount; decide
    data_lanes := fun j _ => by show (0#32).getLsbD j = false; simp
    clk_phase := h.clk_phase
    latch_first := h.latch_first
    back_wf := h.back_wf
    tgt_wf := h.tgt_wf
    cur_wf := h.cur_wf
    back_in := fun _ hc => by cases hc
    tgt_in := fun _ hc => by cases hc
    cur_in := fun _ hc => by cases hc }

/-- PulseWidthsAreNeverShort, its clauses on whole cycles: two of them, and the full scan of the panel of one pixel. -/
theorem witness_pulse_scan :
    (let s : State := ported [0x02000000#32] [14, 15, 14, 15] [];
      s.Inv ∧ s.resetIn = false ∧ BitVec.ofNat 32 s.cyc.count = s.phaseStart ∧
      ∃ t, core.run 4 s = .next t ∧ t.pins.length = s.pins.length + 2 * 2) ∧
    (let s : State := { ported [0x02000000#32] [14, 15, 14, 15, 14, 15] [0x10] with cfg := onePixel };
      s.Inv ∧ s.resetIn = false ∧ BitVec.ofNat 32 s.cyc.count = s.phaseStart ∧
      ∃ t, core.run 6 s = .next t ∧ t.pins.length = s.pins.length + 2 * s.cfg.shiftCount) :=
  ⟨⟨witness_inv_ported _ _ _, rfl, by decide, _, rfl, by decide⟩,
    ⟨witness_inv_one_pixel, rfl, by decide, _, rfl, by decide⟩⟩

/-- StepKeepsTheInvariants, StepKeepsTheTraceLaws, TrueCountsNeverDecrease, OnlyTheListedCommandsWrite: a step that does
something, from a state that meets the invariants. -/
theorem witness_step_inv : (ported [0x01000000#32] [14] []).Inv ∧ (ported [0x01000000#32] [14] []).TraceInv ∧
    ∃ t, step (ported [0x01000000#32] [14] []) = .next t ∧ t.pins = [⟨1014, true, true, 0⟩] :=
  ⟨witness_inv_ported _ _ _, witness_trace_inv _ _ _, _, rfl, by decide⟩

/-- OnlyTheListedCommandsWrite: each clause's left side happens: BACK and CUR, TGT, RTC_MASK, LAST_RTC, the driver state
and `cyc`. -/
theorem witness_writes :
    look (fun t => (t.back, t.cur)) (exec (.setAdj 0 0 ⟨1, 0, 0⟩) { fresh [] [] with cur := [(0, 9)] }) =
      some ([(0, 1)], []) ∧
    look (·.tgt) (exec .flip { fresh [] [] with back := [(0, 1)] }) = some [(0, 1)] ∧
    look (·.rtcMask) (exec (.setMask 5) (fresh [] [])) = some 5 ∧
    look (fun t => (t.lastRtc, t.rtc)) (exec .drivePost (inData 5 [15] [0x10])) = some (0x10, ⟨0x10, [], 0⟩) ∧
    look (fun t => (t.phase, t.cyc)) (exec .driveMid (fresh [14] [])) = some (.data, ⟨1014, [], 0⟩) ∧
    look (·.cyc) (exec (.delay 0) (fresh [1, 2] [])) = some ⟨1003, [], 0⟩ := by decide

/-- ResetMeetsTheInvariants. -/
theorem witness_params : Params.reference.wf := by decide

/-- DrivesIgnoreBackUntilAFlipAndOnlyDrivePostReadsRtc, its clause on DRIVE_POST: a round before the wrap, a wrap in the
period LAST_RTC holds, and a round too early; none of them flips. -/
theorem witness_no_flip :
    ¬ (Claims.DwellElapsed (inData 4 [15] [0x10]) ∧ (inData 4 [15] [0x10]).phase = .data ∧
      Claims.AtWrap (inData 4 [15] [0x10]) ∧
      Claims.maskedSample (inData 4 [15] [0x10]) ≠ (inData 4 [15] [0x10]).lastRtc) ∧
    ¬ (Claims.DwellElapsed (inData 5 [15] [0x0F]) ∧ (inData 5 [15] [0x0F]).phase = .data ∧
      Claims.AtWrap (inData 5 [15] [0x0F]) ∧
      Claims.maskedSample (inData 5 [15] [0x0F]) ≠ (inData 5 [15] [0x0F]).lastRtc) ∧
    ¬ (Claims.DwellElapsed (inData 5 [14] [0x10]) ∧ (inData 5 [14] [0x10]).phase = .data ∧
      Claims.AtWrap (inData 5 [14] [0x10]) ∧
      Claims.maskedSample (inData 5 [14] [0x10]) ≠ (inData 5 [14] [0x10]).lastRtc) :=
  ⟨fun h => absurd h.2.2.1 (show ¬ 4 + 1 = Params.reference.shiftCount by decide), fun h => h.2.2.2 (by decide),
    fun h => absurd h.1 (show ¬ 15 ≤ (Claims.cycSample (inData 5 [14] [0x10]) - 1000#32).toNat by decide)⟩

/-- WrittenPixelIsSeenInBackAndAfterAFlipInTgt: each of the four setters at the last pixel, with the colour it writes. -/
theorem witness_written_pixel : (fresh [] []).back.wf ∧
    (3 : Coord).toNat < (fresh [] []).cfg.width ∧ (1 : Coord).toNat < (fresh [] []).cfg.height ∧
    ∀ i, i ∈ [Instr.set 3 1 ⟨0xFF, 0x80, 0x40⟩, .trySet 3 1 ⟨0xFF, 0x80, 0x40⟩, .setAdj 3 1 ⟨0xFF, 0x4A, 0x1A⟩,
        .trySetAdj 3 1 ⟨0xFF, 0x4A, 0x1A⟩] → ∃ c,
      ((i = .set 3 1 c ∨ i = .trySet 3 1 c) ∧ (⟨0xFF, 0x4A, 0x1A⟩ : Color) = adjust (fresh [] []).cfg c ∨
        (i = .setAdj 3 1 c ∨ i = .trySetAdj 3 1 c) ∧ (⟨0xFF, 0x4A, 0x1A⟩ : Color) = c) := by
  refine ⟨by decide, by decide, by decide, fun i h => ?_⟩
  simp only [List.mem_cons, List.not_mem_nil, or_false] at h
  rcases h with rfl | rfl | rfl | rfl
  · exact ⟨⟨0xFF, 0x80, 0x40⟩, .inl ⟨.inl rfl, by decide⟩⟩
  · exact ⟨⟨0xFF, 0x80, 0x40⟩, .inl ⟨.inr rfl, by decide⟩⟩
  · exact ⟨⟨0xFF, 0x4A, 0x1A⟩, .inr ⟨.inl rfl, rfl⟩⟩
  · exact ⟨⟨0xFF, 0x4A, 0x1A⟩, .inr ⟨.inr rfl, rfl⟩⟩

/-- DrivesIgnoreBackUntilAFlipAndOnlyDrivePostReadsRtc (its last clause), ResetPutsEveryStateToItsResetValue, FirstClockAfterResetPresentsZeros. -/
theorem witness_reset : Instr.driveMid ≠ .drivePost ∧ ({ inData 3 [7] [] with resetIn := true } : State).resetIn = true ∧
    Claims.DwellElapsed (State.resetAt Params.reference ⟨1000, [14], 0⟩ ⟨0, [], 0⟩) :=
  ⟨by decide, rfl, show 14 ≤ (Claims.cycSample (fresh [14] []) - 1000#32).toNat by decide⟩

end Sys2Proof.Tests
end

section
/-! The rules about what one step makes of the whole state (10_state.md R44 to R49). First, said once, what a command does
(`Work`) and what a step does (`step_cases`); from it the induction principle `step_keeps`, which turns "every step keeps
P" into one goal for each shared operation. Then the invariants, the laws of the pin trace and the counters are each a
lemma for an operation, and the obligations are assembled from those. -/

namespace Sys2Proof.Machine

/-! ### What a command and a step do -/

/-- The command in progress and the responses, which no operation but the end of a round writes. -/
def recorded (b : Option Busy) (rs : List Response) (s : State) : State := { s with busy := b, responses := rs }

/-- `Work i s u`: a round of command `i` makes `u` of `s`, the command in progress and the responses left as they are. -/
inductive Work (i : Instr) (s : State) : State → Prop
  /-- The command only answers. -/
  | nothing : Work i s s
  /-- A setter with a pixel on the panel (43_framebuffer.md R173). -/
  | pixel {x y : Coord} (c : Color) (hi : Claims.IsSetter i) (hp : inRange s.cfg x y = true) :
      Work i s (setAdjusted x y c s)
  /-- FLIP (43_framebuffer.md R172). -/
  | flip (hi : i = .flip) : Work i s (flipBuffers s)
  /-- SET_MASK (44_screen_driver.md R209). -/
  | mask {m : Word} (hi : i = .setMask m) : Work i s { s with rtcMask := m }
  /-- The start sample of DELAY and the first one looked at (41_delay.md R141). -/
  | twoSamples {n : BitVec 24} (hi : i = .delay n) : Work i s (sampleCyc (sampleCyc s))
  /-- A later sample of DELAY, or a drive whose dwell has not elapsed (44_screen_driver.md R201). -/
  | sample (hi : Claims.IsDrive i ∨ ∃ n, i = .delay n) : Work i s (sampleCyc s)
  /-- A drive whose dwell has elapsed; only DRIVE_POST is eligible to flip (44_screen_driver.md R207, R208). -/
  | transition (now : Word) (e : Bool) (hi : Claims.IsDrive i) (he : e = true → i = .drivePost) :
      Work i s (advance now e (sampleCyc s)).1

/-- The outcome of a command: its work, then its record. -/
def Worked (i : Instr) (s t : State) : Prop := ∃ b rs u, Work i s u ∧ t = recorded b rs u

theorem Work.responding {i : Instr} {s u : State} (w : Work i s u) (r : Response) : Worked i s (respond r u) :=
  ⟨u.busy, u.responses ++ [r], u, w, rfl⟩

theorem setUnchecked_worked {i : Instr} (hi : Claims.IsSetter i) {x y : Coord} {c : Color} {s t : State}
    (h : setUnchecked x y c s = .next t) : Worked i s t := by
  unfold setUnchecked at h
  split at h
  case isTrue hp =>
    cases h
    exact (Work.pixel c hi hp).responding plainOk
  case isFalse => cases h

theorem setChecked_worked {i : Instr} (hi : Claims.IsSetter i) (x y : Coord) (c : Color) (s : State) :
    Worked i s (setChecked x y c s) := by
  unfold setChecked
  split
  case isTrue hp => exact (Work.pixel c hi hp).responding plainOk
  case isFalse => exact Work.nothing.responding plainOk

theorem execPeek_worked {i : Instr} {x y : Coord} {sel : ArraySel} {s t : State} (h : execPeek x y sel s = .next t) :
    Worked i s t := by
  unfold execPeek at h
  split at h <;> cases h <;> exact Work.nothing.responding _

theorem execDriveMid_worked {s t : State} (h : execDriveMid s = .next t) : Worked .driveMid s t := by
  cases hd : dwellOk (sampleCyc s).cycNow s
  case false =>
    rw [execDriveMid_early hd] at h
    cases h
    exact (Work.sample (.inl (.inl rfl))).responding _
  case true =>
    rw [execDriveMid_advances hd] at h
    cases h
    exact (Work.transition _ false (.inl rfl) (by simp)).responding _

theorem pollDrivePost_worked (s : State) : Worked .drivePost s (pollDrivePost s) := by
  cases hd : dwellOk (sampleCyc s).cycNow s
  case false =>
    rw [pollDrivePost_waits hd]
    exact ⟨_, _, _, .sample (.inl (.inr rfl)), rfl⟩
  case true =>
    have w : Work .drivePost s (advance (sampleCyc s).cycNow true (sampleCyc s)).1 :=
      .transition _ true (.inr rfl) fun _ => rfl
    cases hf : (advance (sampleCyc s).cycNow true (sampleCyc s)).2
    case false =>
      rw [pollDrivePost_goes_on hd hf]
      exact ⟨_, _, _, w, rfl⟩
    case true =>
      rw [pollDrivePost_returns hd hf]
      exact ⟨_, _, _, w, rfl⟩

/-- A round of DELAY takes one sample, and the rest of it is the record. -/
theorem pollDelay_eq_recorded (n : BitVec 24) (start : Word) (s : State) :
    ∃ b rs, pollDelay n start s = recorded b rs (sampleCyc s) := by
  cases h : delayOver n start (sampleCyc s).cycNow
  case false => exact ⟨_, _, pollDelay_waits h⟩
  case true => exact ⟨_, _, pollDelay_returns h⟩

theorem execDelay_worked {n : BitVec 24} {s t : State} (h : execDelay n s = .next t) : Worked (.delay n) s t := by
  obtain ⟨b, rs, hb⟩ := pollDelay_eq_recorded n (sampleCyc s).cycNow (sampleCyc s)
  cases h
  exact ⟨b, rs, _, .twoSamples rfl, hb⟩

/-- What a command can do, command by command. -/
theorem exec_worked {i : Instr} {s t : State} (h : exec i s = .next t) : Worked i s t := by
  cases i with
  | driveMid => exact execDriveMid_worked h
  | drivePost => cases h; exact pollDrivePost_worked s
  | flip => cases h; exact (Work.flip rfl).responding _
  | set x y c => exact setUnchecked_worked ⟨x, y, c, by simp⟩ h
  | setAdj x y c => exact setUnchecked_worked ⟨x, y, c, by simp⟩ h
  | trySet x y c => cases h; exact setChecked_worked ⟨x, y, c, by simp⟩ _ _ _ s
  | trySetAdj x y c => cases h; exact setChecked_worked ⟨x, y, c, by simp⟩ _ _ _ s
  | pulse cur tgt => cases h; exact Work.nothing.responding _
  | pulse4 cur4 tgt4 o0 o1 o2 o3 => cases h; exact Work.nothing.responding _
  | setMask m => cases h; exact (Work.mask rfl).responding _
  | delay n => exact execDelay_worked h
  | peek x y sel => exact execPeek_worked h
  | adjust c => cases h; exact Work.nothing.responding _

/-- A later round of the command in progress is work of that command too. -/
theorem resume_worked (b : Busy) (s : State) : ∃ i, Worked i s (resume b s) := by
  cases b with
  | drivePost => exact ⟨_, pollDrivePost_worked s⟩
  | delay n start =>
    obtain ⟨b', rs, h⟩ := pollDelay_eq_recorded n start s
    exact ⟨.delay n, b', rs, _, .sample (.inr ⟨n, rfl⟩), h⟩

/-- What a step can do: the reset event; or, with some words of the port consumed, an answer to an illegal command (or
nothing), or a round of a command. -/
theorem step_cases {s t : State} (h : step s = .next t) :
    t = resetEvent s ∨ (∃ n rs, t = recorded s.busy rs (consume n s)) ∨ ∃ n i, Worked i (consume n s) t := by
  cases hr : s.resetIn
  case true =>
    rw [step_reset hr] at h
    cases h
    exact .inl rfl
  case false =>
    cases hb : s.busy with
    | some b =>
      rw [step_busy hr hb] at h
      cases h
      exact .inr (.inr ⟨0, resume_worked b s⟩)
    | none =>
      rw [step_idle hr hb] at h
      unfold nextCommand at h
      split at h
      case h_1 i n _ => exact .inr (.inr ⟨n, i, exec_worked h⟩)
      case h_2 n _ =>
        cases h
        exact .inr (.inl ⟨n, s.responses ++ [illegalResponse], by rw [← hb]; rfl⟩)
      case h_3 => cases h
      case h_4 =>
        cases h
        exact .inr (.inl ⟨0, s.responses, by rw [← hb]; rfl⟩)

/-- A property is kept by every step if the reset event, the port, the record and the work of every command keep it. -/
theorem step_keeps {P : State → Prop} (hreset : ∀ s, P s → P (resetEvent s)) (hport : ∀ n s, P s → P (consume n s))
    (hrecord : ∀ b rs s, P s → P (recorded b rs s)) (hwork : ∀ i s u, Work i s u → P s → P u) {s t : State}
    (hs : P s) (h : step s = .next t) : P t := by
  obtain rfl | ⟨n, rs, rfl⟩ | ⟨n, i, b, rs, u, w, rfl⟩ := step_cases h
  · exact hreset s hs
  · exact hrecord _ _ _ (hport n s hs)
  · exact hrecord _ _ _ (hwork i _ _ w (hport n s hs))

/-! ### What the data action makes of IDX, DATA and TGT (44_screen_driver.md R204) -/

theorem lineAfter_lt {n l : Nat} (h : l < n) : lineAfter n l < n := by
  unfold lineAfter
  split <;> omega

theorem beforePdm_idx (e : Bool) (s : State) : (beforePdm e s).idx = lineAfter s.cfg.shiftCount s.idx := by
  simp [beforePdm, atLastLine, lineAfter]

/-- The line step's mask has bits only on the lanes (10_state.md R48 (b)). -/
theorem onLanes_pdmLine (p : Params) (l : Nat) (tgt cur : Memory) : OnLanes p (pdmLine p l tgt cur).2 := by
  intro j hj
  rw [Bool.eq_false_iff, ne_eq, pdmLine_mask]
  rintro ⟨x, hx, ho, -⟩
  exact hj x hx ho

/-- TGT after the frame check is BACK or as before. -/
theorem beforePdm_tgt {P : Memory → Prop} {e : Bool} {s : State} (hb : P s.back) (ht : P s.tgt) :
    P (beforePdm e s).tgt := by
  unfold beforePdm
  dsimp only
  split <;> assumption

/-! ### The invariants of the block (10_state.md R48, 44_screen_driver.md R214) -/

/-- A legal panel has a scan line (00_scope.md R13). -/
theorem shiftCount_pos {p : Params} (h : p.wf) : 0 < p.shiftCount := by
  obtain ⟨-, ⟨hh, -⟩, -⟩ := h
  unfold Params.shiftCount Params.colorCount
  omega

namespace State.Inv

theorem resetAt {p : Params} (h : p.wf) (c r : Counter) : (State.resetAt p c r).Inv where
  cfg_wf := h
  idx_lt := shiftCount_pos h
  data_lanes := fun _ _ => BitVec.getLsbD_zero
  clk_phase := by simp [State.resetAt]
  latch_first := by simp [State.resetAt]
  back_wf := Memory.wf_nil
  tgt_wf := Memory.wf_nil
  cur_wf := Memory.wf_nil
  back_in := by simp [State.resetAt]
  tgt_in := by simp [State.resetAt]
  cur_in := by simp [State.resetAt]

variable {s : State}

theorem after_resetEvent (h : s.Inv) : (resetEvent s).Inv := { resetAt h.cfg_wf (sampleCyc s).cyc s.rtc with }

theorem after_consume (h : s.Inv) (n : Nat) : (consume n s).Inv := { h with }

theorem after_recorded (h : s.Inv) (b : Option Busy) (rs : List Response) : (recorded b rs s).Inv := { h with }

theorem after_sampleCyc (h : s.Inv) : (sampleCyc s).Inv := { h with }

theorem after_setMask (h : s.Inv) (m : Word) : State.Inv { s with rtcMask := m } := { h with }

theorem after_flipBuffers (h : s.Inv) : (flipBuffers s).Inv := { h with tgt_wf := h.back_wf, tgt_in := h.back_in }

theorem after_setAdjusted (h : s.Inv) {x y : Coord} (c : Color) (hp : inRange s.cfg x y = true) : (setAdjusted x y c s).Inv :=
  { h with
    back_wf := wf_writePixel _ _ _ _ h.back_wf
    cur_wf := wf_writePixel _ _ _ ⟨0, 0, 0⟩ h.cur_wf
    back_in := within_writePixel hp _ h.back_in
    cur_in := within_writePixel hp ⟨0, 0, 0⟩ h.cur_in }

/-- In ClockPhase CLK is low, and so is LATCH. -/
theorem latch_low (h : s.Inv) (hph : s.phase = .clock) : s.latch = false := by
  have hclk : s.clk ≠ true := by simp [h.clk_phase, hph]
  rw [Bool.eq_false_iff, ne_eq, h.latch_first]
  exact fun hl => hclk hl.1

theorem after_clockAction (h : s.Inv) (hph : s.phase = .clock) (now : Word) : (clockAction now s).Inv :=
  { h with
    clk_phase := by simp
    latch_first := by simp [h.latch_low hph] }

theorem after_dataAction (h : s.Inv) (now : Word) (e : Bool) :
    (enterPhase .clock now (pdmStep (beforePdm e s))).Inv := by
  have hidx : (beforePdm e s).idx < s.cfg.shiftCount := by
    rw [beforePdm_idx]
    exact lineAfter_lt h.idx_lt
  exact
    { h with
      idx_lt := hidx
      data_lanes := onLanes_pdmLine _ _ _ _
      clk_phase := by simp [beforePdm]
      latch_first := by simp [beforePdm]
      tgt_wf := beforePdm_tgt (P := Memory.wf) h.back_wf h.tgt_wf
      cur_wf := pdmLine_wf h.cur_wf
      tgt_in := beforePdm_tgt (P := (Memory.within · s.cfg.cells)) h.back_in h.tgt_in
      cur_in := pdmLine_within hidx h.cur_in }

theorem after_advance (h : s.Inv) (now : Word) (e : Bool) : (advance now e s).1.Inv := by
  cases hph : s.phase
  case clock =>
    rw [advance_clock hph]
    exact h.after_clockAction hph now
  case data =>
    rw [advance_data hph]
    exact h.after_dataAction now e

theorem after_work {i : Instr} {u : State} (w : Work i s u) (h : s.Inv) : u.Inv := by
  cases w with
  | nothing => exact h
  | pixel c hi hp => exact h.after_setAdjusted c hp
  | flip hi => exact h.after_flipBuffers
  | mask hi => exact h.after_setMask _
  | twoSamples hi => exact h.after_sampleCyc.after_sampleCyc
  | sample hi => exact h.after_sampleCyc
  | transition now e hi he => exact h.after_sampleCyc.after_advance now e

end State.Inv

/-- Settles O50: the invariants are kept by the reset event, by every piece of bookkeeping and by the work of every
command. -/
theorem stepKeepsTheInvariants : Obligations.StepKeepsTheInvariants := fun _ _ =>
  step_keeps (fun _ h => h.after_resetEvent) (fun n _ h => h.after_consume n) (fun b rs _ h => h.after_recorded b rs)
    fun _ _ _ => State.Inv.after_work

/-! ### The laws of the pin trace (10_state.md R44, 44_screen_driver.md R200, R213 to R215, R219) -/

/-- IDX as a longer trace shows it. -/
theorem lineOf_append (n l : Nat) (es fs : List Pin) : lineOf n l (es ++ fs) = lineOf n (lineOf n l es) fs := by
  induction es generalizing l with
  | nil => rfl
  | cons e es ih =>
    simp only [List.cons_append, lineOf]
    split <;> exact ih _

/-- The words a longer trace presents to the shift registers. -/
theorem shiftedFrom_append (n l : Nat) (es fs : List Pin) :
    shiftedFrom n l (es ++ fs) = shiftedFrom n l es ++ shiftedFrom n (lineOf n l es) fs := by
  induction es generalizing l with
  | nil => rfl
  | cons e es ih =>
    simp only [List.cons_append, lineOf, shiftedFrom]
    split
    · rw [ih, List.cons_append]
    · exact ih _

/-- An event of a trace with one more event at its end is an old one or that one. -/
theorem event_of_concat {es : List Pin} {e f : Pin} {k : Nat} (h : (es ++ [e])[k]? = some f) :
    es[k]? = some f ∨ k = es.length ∧ f = e := by
  rcases Nat.lt_or_ge k es.length with hk | hk
  · rw [List.getElem?_append_left hk] at h
    exact .inl h
  · rw [List.getElem?_append_right hk, List.getElem?_singleton] at h
    split at h
    · exact .inr ⟨by omega, (Option.some.inj h).symm⟩
    · cases h

/-- The event of an action from `s` to `t`: the stamp, and the latches after it (10_state.md R44). -/
def eventOf (t : State) : Pin := ⟨t.phaseStart, t.clk, t.latch, t.data⟩

/-- One action of the protocol, as far as the trace shows it (44_screen_driver.md R200, R203, R204): it emits its event and
leaves the other phase; a clock action keeps IDX and DATA, and raises LATCH exactly at scan line 0; a data action moves
IDX on. -/
structure Acted (s t : State) : Prop where
  cfg : t.cfg = s.cfg
  pins : t.pins = s.pins ++ [eventOf t]
  leaves : t.phase = .data ↔ ¬ s.phase = .data
  clk : t.clk = true ↔ t.phase = .data
  idx : t.idx = if t.clk then s.idx else lineAfter s.cfg.shiftCount s.idx
  data : t.clk = true → t.data = s.data
  latch : t.clk = true → (t.latch = true ↔ s.idx = 0)

namespace State.TraceInv

theorem resetAt (p : Params) (c r : Counter) : (State.resetAt p c r).TraceInv where
  last := by simp [State.resetAt]
  alternates := by simp [State.resetAt]
  parity := by simp [State.resetAt]
  position := rfl
  stable := by simp [State.resetAt]
  latched := by simp [shifted, State.resetAt, shiftedFrom]

variable {s t : State}

theorem after_resetEvent (s : State) : (resetEvent s).TraceInv := { resetAt s.cfg (sampleCyc s).cyc s.rtc with }

theorem after_consume (h : s.TraceInv) (n : Nat) : (consume n s).TraceInv := { h with }

theorem after_recorded (h : s.TraceInv) (b : Option Busy) (rs : List Response) : (recorded b rs s).TraceInv := { h with }

theorem after_sampleCyc (h : s.TraceInv) : (sampleCyc s).TraceInv := { h with }

theorem after_setMask (h : s.TraceInv) (m : Word) : State.TraceInv { s with rtcMask := m } := { h with }

theorem after_flipBuffers (h : s.TraceInv) : (flipBuffers s).TraceInv := { h with }

theorem after_setAdjusted (h : s.TraceInv) (x y : Coord) (c : Color) : (setAdjusted x y c s).TraceInv := { h with }

/-- Every action keeps the laws: an event of the longer trace is an old one, or the action's own. -/
theorem after_action (h : s.TraceInv) (a : Acted s t) : t.TraceInv where
  last := fun e he => by
    rw [a.pins, List.getLast?_concat] at he
    exact (Option.some.inj he).symm
  alternates := fun k e he => by
    rw [a.pins] at he
    rcases event_of_concat he with he | ⟨rfl, rfl⟩
    · exact h.alternates k e he
    · have hp := h.parity
      have hl := a.leaves
      have hc : (eventOf t).clk = true ↔ t.phase = .data := a.clk
      rw [hc, hl, hp]
      omega
  parity := by
    rw [a.leaves, h.parity, a.pins, List.length_append, List.length_singleton]
    omega
  position := by
    rw [a.pins, a.cfg, lineOf_append, h.position, a.idx]
    rfl
  stable := fun k e f he hf hclk => by
    rw [a.pins] at he hf
    rcases event_of_concat hf with hf | ⟨hk, rfl⟩
    · rcases event_of_concat he with he | ⟨hk, -⟩
      · exact h.stable k e f he hf hclk
      · rw [List.getElem?_eq_none (by omega)] at hf
        cases hf
    · rcases event_of_concat he with he | ⟨hk', -⟩
      · have hlast : s.pins.getLast? = some e := by
          rw [List.getLast?_eq_getElem?, ← hk, Nat.add_sub_cancel, he]
        rw [h.last e hlast]
        exact a.data hclk
      · omega
  latched := fun q hq => by
    unfold shifted at hq
    rw [a.pins, a.cfg, shiftedFrom_append, h.position, List.mem_append] at hq
    rcases hq with hq | hq
    · exact h.latched q hq
    · cases hc : t.clk
      case false => simp [shiftedFrom, eventOf, hc] at hq
      case true =>
        obtain rfl : q = (s.idx, t.latch, t.data) := by simpa [shiftedFrom, eventOf, hc] using hq
        exact a.latch hc

end State.TraceInv

theorem clockAction_acted {s : State} (h : s.Inv) (hph : s.phase = .clock) (now : Word) :
    Acted s (clockAction now s) where
  cfg := rfl
  pins := rfl
  leaves := by simp [hph]
  clk := by simp
  idx := rfl
  data := fun _ => rfl
  latch := fun _ => by simp [h.latch_low hph]

theorem dataAction_acted {s : State} (hph : s.phase = .data) (now : Word) (e : Bool) :
    Acted s (enterPhase .clock now (pdmStep (beforePdm e s))) where
  cfg := rfl
  pins := rfl
  leaves := by simp [hph]
  clk := by simp [beforePdm]
  idx := beforePdm_idx e s
  data := by simp [beforePdm]
  latch := by simp [beforePdm]

theorem advance_acted {s : State} (h : s.Inv) (now : Word) (e : Bool) : Acted s (advance now e s).1 := by
  cases hph : s.phase
  case clock =>
    rw [advance_clock hph]
    exact clockAction_acted h hph now
  case data =>
    rw [advance_data hph]
    exact dataAction_acted hph now e

theorem State.TraceInv.after_work {i : Instr} {s u : State} (w : Work i s u) (hinv : s.Inv) (h : s.TraceInv) :
    u.TraceInv := by
  cases w with
  | nothing => exact h
  | pixel c hi hp => exact h.after_setAdjusted _ _ c
  | flip hi => exact h.after_flipBuffers
  | mask hi => exact h.after_setMask _
  | twoSamples hi => exact h.after_sampleCyc.after_sampleCyc
  | sample hi => exact h.after_sampleCyc
  | transition now e hi he => exact h.after_sampleCyc.after_action (advance_acted hinv.after_sampleCyc now e)

/-- Settles O51: the laws are kept together with the invariants, which say that LATCH is low before a clock action. -/
theorem stepKeepsTheTraceLaws : Obligations.StepKeepsTheTraceLaws := fun _ _ hi ht h =>
  (step_keeps (P := fun s => s.Inv ∧ s.TraceInv) (fun s ⟨hi, _⟩ => ⟨hi.after_resetEvent, .after_resetEvent s⟩)
    (fun n _ ⟨hi, ht⟩ => ⟨hi.after_consume n, ht.after_consume n⟩)
    (fun b rs _ ⟨hi, ht⟩ => ⟨hi.after_recorded b rs, ht.after_recorded b rs⟩)
    (fun _ _ _ w ⟨hi, ht⟩ => ⟨hi.after_work w, ht.after_work w hi⟩) ⟨hi, ht⟩ h).2

/-- Settles O49: both hold of `State.resetAt` at legal parameters, and `State.reset` is `State.resetAt` at those called T. -/
theorem resetMeetsTheInvariants : Obligations.ResetMeetsTheInvariants :=
  have reference_wf : Params.reference.wf := by decide
  ⟨fun p c r hp => ⟨.resetAt hp c r, .resetAt p c r⟩, .resetAt reference_wf _ _, .resetAt _ _ _⟩

/-! ### The input counters (10_state.md R45, R46) -/

/-- A transition takes a sample of `rtc` or leaves it alone. -/
theorem rtc_count_le_advance (now : Word) (e : Bool) (s : State) : s.rtc.count ≤ (advance now e s).1.rtc.count := by
  cases hph : s.phase
  case clock => rw [advance_clock hph, clockAction_rtc]
  case data =>
    rw [advance_data hph]
    change _ ≤ (if checksFrame e s then s.rtc.tick Config.freeRtcGrowth else s.rtc).count
    split
    · exact Counter.count_le_tick _ _
    · exact Nat.le_refl _

/-- No true count of `s` is above that of `t`. -/
def CountsLe (s t : State) : Prop := s.cyc.count ≤ t.cyc.count ∧ s.rtc.count ≤ t.rtc.count

theorem countsLe_sampleCyc (s : State) : CountsLe s (sampleCyc s) := ⟨Counter.count_le_tick _ _, Nat.le_refl _⟩

theorem CountsLe.trans {s t u : State} (h : CountsLe s t) (h' : CountsLe t u) : CountsLe s u :=
  ⟨h.1.trans h'.1, h.2.trans h'.2⟩

theorem Work.countsLe {i : Instr} {s u : State} (w : Work i s u) : CountsLe s u := by
  cases w with
  | nothing | pixel | flip | mask => exact ⟨Nat.le_refl _, Nat.le_refl _⟩
  | twoSamples => exact (countsLe_sampleCyc s).trans (countsLe_sampleCyc _)
  | sample => exact countsLe_sampleCyc s
  | transition now e hi he =>
    exact (countsLe_sampleCyc s).trans ⟨by rw [advance_cyc], rtc_count_le_advance now e _⟩

/-- Settles O54: what is kept is that the counts are at least those of the state the step began in. -/
theorem trueCountsNeverDecrease : Obligations.TrueCountsNeverDecrease := fun s _ h =>
  step_keeps (P := CountsLe s) (fun u hu => hu.trans (countsLe_sampleCyc u)) (fun _ _ hu => hu) (fun _ _ _ hu => hu)
    (fun _ _ _ w hu => hu.trans w.countsLe) ⟨Nat.le_refl _, Nat.le_refl _⟩ h

/-! ### Which command writes which state (10_state.md R49) -/

/-- A transition leaves TGT alone or makes it BACK. -/
theorem advance_tgt (now : Word) (e : Bool) (s : State) :
    (advance now e s).1.tgt = s.tgt ∨ (advance now e s).1.tgt = s.back := by
  cases hph : s.phase
  case clock => exact .inl (by rw [advance_clock hph, clockAction_tgt])
  case data =>
    rw [advance_data hph]
    exact beforePdm_tgt (P := fun m => m = s.tgt ∨ m = s.back) (.inr rfl) (.inl rfl)

/-- A transition that is not eligible checks for no frame boundary (44_screen_driver.md R204, R207). -/
theorem advance_ineligible (now : Word) (s : State) :
    (advance now false s).1.tgt = s.tgt ∧ (advance now false s).1.lastRtc = s.lastRtc ∧
      (advance now false s).1.rtc = s.rtc := by
  cases hph : s.phase
  case clock => simp [advance_clock hph]
  case data => simp [advance_data hph, beforePdm, flips, checksFrame]

/-- Settles O52, by what a command can do: each kind of work writes the state listed for its commands. -/
theorem onlyTheListedCommandsWrite : Obligations.OnlyTheListedCommandsWrite := by
  intro i s t h
  obtain ⟨b, rs, u, w, rfl⟩ := exec_worked h
  simp only [recorded]
  cases w with
  | nothing => simp
  | pixel c hi hp => simp [hi]
  | flip hi => simp [hi]
  | mask hi => simp [hi]
  | twoSamples hi => simp [hi]
  | sample hi => simp [hi]
  | transition now e hi he =>
    cases e with
    | false =>
      obtain ⟨htgt, hlast, hrtc⟩ := advance_ineligible now (sampleCyc s)
      simp [hi, htgt, hlast, hrtc]
    | true =>
      obtain rfl := he rfl
      have htgt : (advance now true (sampleCyc s)).1.tgt ≠ s.tgt → (advance now true (sampleCyc s)).1.tgt = s.back :=
        (advance_tgt now true (sampleCyc s)).resolve_left
      simpa [hi] using htgt

/-! ### The reset event (10_state.md R47, 70_reset_and_hazards.md R280) -/

/-- Settles O55: each field is the one `State.resetAt` gives it, and an array without a listed cell reads as 0. -/
theorem resetPutsEveryStateToItsResetValue : Obligations.ResetPutsEveryStateToItsResetValue := by
  refine ⟨fun s h => ⟨_, step_reset h, ?_⟩, fun p c r t ht => ?_, ⟨_, _, rfl⟩⟩
  · exact ⟨rfl, rfl, rfl, rfl, rfl, rfl, rfl, rfl, rfl, fun _ => ⟨rfl, rfl, rfl⟩, rfl, rfl, rfl⟩
  · subst ht
    exact ⟨rfl, rfl, rfl, rfl, rfl, rfl, rfl, rfl, fun _ => ⟨rfl, rfl, rfl⟩, rfl, rfl, rfl⟩

end Sys2Proof.Machine
end

section
/-! The rules about the framebuffer memory (20_memory.md). First the row-scan index; then what a setter and a PEEK do on
the panel, which gives what a written pixel is seen as; then which state the drives and the other commands do not depend
on, each an equation "the command after the overwrite is the overwrite after the command". -/

namespace Sys2Proof.Machine

/-! ### The row-scan index (20_memory.md R71) -/

theorem line_div {y c : Nat} (hc : c < 3) : line y c / 3 = y := by
  unfold line Params.colorCount
  omega

theorem line_mod {y c : Nat} (hc : c < 3) : line y c % 3 = c := by
  unfold line Params.colorCount
  omega

theorem line_div_mod (l : Nat) : line (l / 3) (l % 3) = l := Nat.div_add_mod' l 3

/-- A scan line belongs to a row of the panel (20_memory.md R71). -/
theorem line_row_lt {p : Params} {l : Nat} (hl : l < p.shiftCount) : l / 3 < p.height :=
  Nat.div_lt_of_lt_mul (Nat.mul_comm p.height 3 ▸ hl)

/-- Settles O27: `line` has the division by 3 with remainder as its inverse on both sides. -/
theorem lineIsABijection : Obligations.LineIsABijection := fun _ =>
  ⟨fun _ _ hy hc => ⟨rfl, line_lt hy hc, line_div hc, line_mod hc⟩,
    fun l hl => ⟨line_row_lt hl, Nat.mod_lt l (by decide), line_div_mod l⟩, fun _ _ _ => rfl⟩

/-! ### A written pixel seen by PEEK (20_memory.md R80, R83) -/

theorem setUnchecked_onPanel {x y : Coord} {s : State} (h : inRange s.cfg x y = true) (c : Color) :
    setUnchecked x y c s = .next (respond plainOk (setAdjusted x y c s)) := if_pos h

theorem setUnchecked_offPanel {x y : Coord} {s : State} (h : inRange s.cfg x y = false) (c : Color) :
    setUnchecked x y c s = .refused .setterOutOfRange := by simp [setUnchecked, h]

theorem setChecked_onPanel {x y : Coord} {s : State} (h : inRange s.cfg x y = true) (c : Color) :
    setChecked x y c s = respond plainOk (setAdjusted x y c s) := by simp [setChecked, h]

theorem setChecked_offPanel {x y : Coord} {s : State} (h : inRange s.cfg x y = false) (c : Color) :
    setChecked x y c s = respond plainOk s := by simp [setChecked, h]

theorem execPeek_onPanel {x y : Coord} {s : State} (h : inRange s.cfg x y = true) (sel : ArraySel) :
    execPeek x y sel s = .next (respond (okResponse false (colorValue (readPixel s.cfg x y (s.array sel))) 0) s) := by
  simp [execPeek, h]

theorem execPeek_offPanel {x y : Coord} {s : State} (h : inRange s.cfg x y = false) (sel : ArraySel) :
    execPeek x y sel s = .next (answerIllegal s) := by
  simp [execPeek, h]

/-- On the panel the four setters are one operation, on the adjusted colour or the colour as it is (43_framebuffer.md
R174, R175, R177, R178). -/
theorem exec_setter {i : Instr} {s : State} {x y : Coord} {c d : Color} (h : inRange s.cfg x y = true)
    (hi : (i = .set x y c ∨ i = .trySet x y c) ∧ d = adjust s.cfg c ∨ (i = .setAdj x y c ∨ i = .trySetAdj x y c) ∧ d = c) :
    exec i s = .next (respond plainOk (setAdjusted x y d s)) := by
  obtain ⟨rfl | rfl, rfl⟩ | ⟨rfl | rfl, rfl⟩ := hi
  · exact setUnchecked_onPanel h _
  · exact congrArg _ (setChecked_onPanel h _)
  · exact setUnchecked_onPanel h _
  · exact congrArg _ (setChecked_onPanel h _)

/-- A PEEK of an array that the pixel was written to answers the colour written. -/
theorem exec_peek_written {x y : Coord} {sel : ArraySel} {s : State} {d : Color} {m : Memory}
    (h : inRange s.cfg x y = true) (hm : m.wf) (hs : s.array sel = writePixel s.cfg x y d m) :
    exec (.peek x y sel) s = .next (respond (okResponse false (colorValue d) 0) s) := by
  change execPeek x y sel s = _
  rw [execPeek_onPanel h, hs, readPixel_writePixel h d hm]

/-- Settles O32: BACK holds the written pixel after the setter, and TGT, untouched by it, is that BACK after the flip. -/
theorem writtenPixelIsSeenInBackAndAfterAFlipInTgt : Obligations.WrittenPixelIsSeenInBackAndAfterAFlipInTgt := by
  intro s i x y c d hback hx hy hi
  have h : inRange s.cfg x y = true := inRange_iff.mpr ⟨hx, hy⟩
  exact ⟨_, _, exec_setter h hi, rfl, exec_peek_written (m := s.back) h hback rfl, rfl,
    exec_peek_written (m := s.back) h hback rfl⟩

/-! ### What the drives do not depend on (20_memory.md R83, 60_exceptions.md R256, R262) -/

/-- The state with other contents of BACK. -/
def withBack (b : Memory) (s : State) : State := { s with back := b }

/-- The state with another real-time counter. -/
def withRtc (c : Counter) (s : State) : State := { s with rtc := c }

/-- An overwrite of state that a sample of `cyc`, the dwell gate and the end of a round neither read nor write. -/
structure Unseen (f : State → State) : Prop where
  sample : ∀ s, sampleCyc (f s) = f (sampleCyc s)
  now : ∀ s, (f s).cycNow = s.cycNow
  gate : ∀ now s, dwellOk now (f s) = dwellOk now s
  busy : ∀ b s, { f s with busy := b } = f { s with busy := b }
  answer : ∀ r s, respond r (f s) = f (respond r s)

theorem withBack_unseen (b : Memory) : Unseen (withBack b) :=
  ⟨fun _ => rfl, fun _ => rfl, fun _ _ => rfl, fun _ _ => rfl, fun _ _ => rfl⟩

theorem withRtc_unseen (c : Counter) : Unseen (withRtc c) :=
  ⟨fun _ => rfl, fun _ => rfl, fun _ _ => rfl, fun _ _ => rfl, fun _ _ => rfl⟩

section
variable {f : State → State} (hf : Unseen f)
include hf

/-- DRIVE_MID does the same after an overwrite if its transition, which is not eligible, does. -/
theorem Unseen.execDriveMid_commutes (s : State)
    (ha : ∀ now u, (advance now false (f u)).1 = f (advance now false u).1) :
    execDriveMid (f s) = Claims.mapNext f (execDriveMid s) := by
  have hsame : dwellOk (sampleCyc (f s)).cycNow (f s) = dwellOk (sampleCyc s).cycNow s := by
    rw [hf.sample, hf.now, hf.gate]
  cases hd : dwellOk (sampleCyc s).cycNow s
  case false =>
    rw [execDriveMid_early hd, execDriveMid_early (hsame.trans hd), hf.sample, hf.answer]
    rfl
  case true =>
    rw [execDriveMid_advances hd, execDriveMid_advances (hsame.trans hd), hf.sample, hf.now, ha, hf.answer]
    rfl

/-- A round of DELAY looks at samples of `cyc` only. -/
theorem Unseen.pollDelay_commutes (n : BitVec 24) (start : Word) (s : State) :
    pollDelay n start (f s) = f (pollDelay n start s) := by
  have hsame : delayOver n start (sampleCyc (f s)).cycNow = delayOver n start (sampleCyc s).cycNow := by
    rw [hf.sample, hf.now]
  cases h : delayOver n start (sampleCyc s).cycNow
  case false => rw [pollDelay_waits h, pollDelay_waits (hsame.trans h), hf.sample, hf.busy]
  case true => rw [pollDelay_returns h, pollDelay_returns (hsame.trans h), hf.sample, hf.busy, hf.answer]

end

/-- A transition reads BACK only to flip (44_screen_driver.md R204, R205). -/
theorem advance_withBack {now : Word} {e : Bool} {s : State} (h : (advance now e s).2 = false) (b : Memory) :
    advance now e (withBack b s) = (withBack b (advance now e s).1, false) := by
  cases hph : s.phase
  case clock => rw [advance_clock hph, advance_clock (s := withBack b s) hph]; rfl
  case data =>
    rw [advance_data hph] at h ⊢
    have hflips : flips e s = false := h
    have hbefore : beforePdm e (withBack b s) = withBack b (beforePdm e s) := by
      have hflips' : flips e (withBack b s) = false := hflips
      simp only [beforePdm, hflips, hflips']
      rfl
    rw [advance_data (s := withBack b s) hph, hbefore]
    exact congrArg _ hflips

/-- A transition that is not eligible samples no real-time counter (44_screen_driver.md R204). -/
theorem advance_withRtc (now : Word) (c : Counter) (s : State) :
    (advance now false (withRtc c s)).1 = withRtc c (advance now false s).1 := by
  cases hph : s.phase
  case clock => rw [advance_clock hph, advance_clock (s := withRtc c s) hph]; rfl
  case data =>
    have hbefore : beforePdm false (withRtc c s) = withRtc c (beforePdm false s) := by
      simp only [beforePdm, checksFrame, flips, Bool.and_false, Bool.false_and]
      rfl
    rw [advance_data hph, advance_data (s := withRtc c s) hph, hbefore]
    rfl

/-- Without eligibility there is no flip (44_screen_driver.md R204, R207). -/
theorem advance_ineligible_flipped (now : Word) (s : State) : (advance now false s).2 = false := by
  simp [advance_flipped, flips, checksFrame]

/-- The dwell gate of a round is the statements' DwellElapsed. -/
theorem dwellOk_iff_dwellElapsed (s : State) : dwellOk (sampleCyc s).cycNow s = true ↔ Claims.DwellElapsed s := by
  rw [dwellOk_iff]
  unfold Claims.DwellElapsed
  cases s.phase <;> rfl

/-- An eligible transition flips at the end of the scan, in a new period of the real-time counter (44_screen_driver.md
R204, R205). -/
theorem advance_eligible_flipped (now : Word) (s : State) :
    (advance now true s).2 = true ↔ s.phase = .data ∧ Claims.AtWrap s ∧ Claims.maskedSample s ≠ s.lastRtc := by
  have hmasked : Claims.maskedSample s = nextMasked s := rfl
  simp [advance_flipped, flips, checksFrame, atLastLine, Claims.AtWrap, hmasked]

/-- A round of DRIVE_POST that does not flip does the same whatever BACK holds. -/
theorem pollDrivePost_withBack {s : State} (h : dwellOk (sampleCyc s).cycNow s = true →
    (advance (sampleCyc s).cycNow true (sampleCyc s)).2 = false) (b : Memory) :
    pollDrivePost (withBack b s) = withBack b (pollDrivePost s) := by
  cases hd : dwellOk (sampleCyc s).cycNow s
  case false => rw [pollDrivePost_waits hd, pollDrivePost_waits (s := withBack b s) hd]; rfl
  case true =>
    have ha : advance (sampleCyc (withBack b s)).cycNow true (sampleCyc (withBack b s)) = _ := advance_withBack (h hd) b
    rw [pollDrivePost_goes_on hd (h hd), pollDrivePost_goes_on (s := withBack b s) hd (by rw [ha]), ha]
    rfl

theorem setUnchecked_withRtc (x y : Coord) (d : Color) (s : State) (c : Counter) :
    setUnchecked x y d (withRtc c s) = Claims.mapNext (withRtc c) (setUnchecked x y d s) := by
  cases h : inRange s.cfg x y
  case false => rw [setUnchecked_offPanel h, setUnchecked_offPanel (s := withRtc c s) h]; rfl
  case true => rw [setUnchecked_onPanel h, setUnchecked_onPanel (s := withRtc c s) h]; rfl

theorem setChecked_withRtc (x y : Coord) (d : Color) (s : State) (c : Counter) :
    setChecked x y d (withRtc c s) = withRtc c (setChecked x y d s) := by
  cases h : inRange s.cfg x y
  case false => rw [setChecked_offPanel h, setChecked_offPanel (s := withRtc c s) h]; rfl
  case true => rw [setChecked_onPanel h, setChecked_onPanel (s := withRtc c s) h]; rfl

theorem execPeek_withRtc (x y : Coord) (sel : ArraySel) (s : State) (c : Counter) :
    execPeek x y sel (withRtc c s) = Claims.mapNext (withRtc c) (execPeek x y sel s) := by
  have harray : (withRtc c s).array sel = s.array sel := by cases sel <;> rfl
  cases h : inRange s.cfg x y
  case false => rw [execPeek_offPanel h, execPeek_offPanel (s := withRtc c s) h]; rfl
  case true => rw [execPeek_onPanel h, execPeek_onPanel (s := withRtc c s) h, harray]; rfl

/-- No command but DRIVE_POST reads the real-time counter, command by command (60_exceptions.md R256, R262). -/
theorem exec_withRtc {i : Instr} (hi : i ≠ .drivePost) (s : State) (c : Counter) :
    exec i (withRtc c s) = Claims.mapNext (withRtc c) (exec i s) := by
  cases i with
  | driveMid => exact (withRtc_unseen c).execDriveMid_commutes s fun now => advance_withRtc now c
  | drivePost => exact absurd rfl hi
  | set x y d => exact setUnchecked_withRtc x y (adjust s.cfg d) s c
  | setAdj x y d => exact setUnchecked_withRtc x y d s c
  | trySet x y d => exact congrArg _ (setChecked_withRtc x y (adjust s.cfg d) s c)
  | trySetAdj x y d => exact congrArg _ (setChecked_withRtc x y d s c)
  | delay n => exact congrArg _ ((withRtc_unseen c).pollDelay_commutes n _ (sampleCyc s))
  | peek x y sel => exact execPeek_withRtc x y sel s c
  | flip | pulse | pulse4 | setMask | adjust => rfl

/-- Settles O53, a clause for each of the three overwrites that a command does not see. -/
theorem drivesIgnoreBackUntilAFlipAndOnlyDrivePostReadsRtc :
    Obligations.DrivesIgnoreBackUntilAFlipAndOnlyDrivePostReadsRtc := by
  refine ⟨fun s b => ?_, fun s b hno => ?_, fun i s c hi => exec_withRtc hi s c⟩
  · exact (withBack_unseen b).execDriveMid_commutes s fun now u =>
      congrArg Prod.fst (advance_withBack (advance_ineligible_flipped now u) b)
  · refine congrArg _ (pollDrivePost_withBack (fun hd => ?_) b)
    rw [Bool.eq_false_iff, ne_eq, advance_eligible_flipped]
    exact fun hflip => hno ⟨(dwellOk_iff_dwellElapsed s).mp hd, hflip⟩

end Sys2Proof.Machine
end


section
/-! The rules of the command encoding (30_encoding.md). A concatenation is compared field by field (`eq_append_iff`),
which gives for each format when a header and the words after it spell a command; `fields_of_decodeOp` and
`decodeOp_of_fields` gather the formats, and `decode_eq_command_iff` says that the decoder and the encoder are inverse.
Programs, illegal commands and the assembler form rest on these. -/

namespace Sys2Proof

/-! ### A word is its fields -/

theorem eq_append_iff {m n : Nat} {v : BitVec (m + n)} {a : BitVec m} {b : BitVec n} :
    v = a ++ b ↔ v.extractLsb' n m = a ∧ v.extractLsb' 0 n = b := by
  constructor
  · rintro rfl
    exact ⟨BitVec.extractLsb'_append_eq_left, BitVec.extractLsb'_append_eq_right⟩
  · rintro ⟨rfl, rfl⟩
    exact BitVec.extractLsb'_append_extractLsb'.symm

theorem extractLsb'_extractLsb' {w : Nat} (x : BitVec w) {start len s n : Nat} (h : s + n ≤ len) :
    (x.extractLsb' start len).extractLsb' s n = x.extractLsb' (start + s) n := by
  ext k hk
  have : s + k < len := by omega
  simp [this, Nat.add_assoc]

theorem eq_append_append_iff {l m n : Nat} {v : BitVec (l + m + n)} {a : BitVec l} {b : BitVec m} {c : BitVec n} :
    v = a ++ b ++ c ↔ v.extractLsb' (n + m) l = a ∧ v.extractLsb' n m = b ∧ v.extractLsb' 0 n = c := by
  rw [eq_append_iff, eq_append_iff, extractLsb'_extractLsb' v (by omega), extractLsb'_extractLsb' v (by omega),
    and_assoc, Nat.add_zero]

/-- A field below the opcode is a field of the operand field. -/
theorem extractLsb'_operand (h : Word) {s n : Nat} (hs : s + n ≤ 24) :
    (operand h).extractLsb' s n = h.extractLsb' s n := by
  simpa [operand] using extractLsb'_extractLsb' h (start := 0) hs

theorem operand_eq_packXY_iff (h : Word) (x y : Coord) : operand h = packXY x y ↔ fieldX h = x ∧ fieldY h = y := by
  refine (eq_append_iff (m := 12) (n := 12) (v := operand h)).trans ?_
  simp only [extractLsb'_operand h, Nat.reduceAdd, Nat.reduceLeDiff]
  rfl

theorem operand_eq_pulse_iff (h : Word) (cur tgt : Byte) : operand h = 0#8 ++ cur ++ tgt ↔
    h.extractLsb' 16 8 = 0#8 ∧ h.extractLsb' 8 8 = cur ∧ h.extractLsb' 0 8 = tgt := by
  refine (eq_append_append_iff (l := 8) (m := 8) (n := 8) (v := operand h)).trans ?_
  simp only [extractLsb'_operand h, Nat.reduceAdd, Nat.reduceLeDiff]

theorem operand_eq_pulse4_iff (h : Word) (o0 o1 o2 o3 : Offset) : operand h = 0#4 ++ o3 ++ o2 ++ o1 ++ o0 ↔
    (h.extractLsb' 20 4 = 0#4 ∧ h.extractLsb' 15 5 = o3 ∧ h.extractLsb' 10 5 = o2) ∧ h.extractLsb' 5 5 = o1 ∧
      h.extractLsb' 0 5 = o0 := by
  refine (eq_append_append_iff (l := 14) (m := 5) (n := 5) (v := operand h)).trans (and_congr ?_ ?_)
  · refine (eq_append_append_iff (l := 4) (m := 5) (n := 5)).trans ?_
    simp only [extractLsb'_operand h, extractLsb'_extractLsb', Nat.reduceAdd, Nat.reduceLeDiff]
  · simp only [extractLsb'_operand h, Nat.reduceAdd, Nat.reduceLeDiff]

theorem eq_toBits_iff (v : BitVec 24) (c : Color) : v = c.toBits ↔ Color.ofBits v = c := by
  obtain ⟨r, g, b⟩ := c
  exact (eq_append_append_iff (l := 8) (m := 8) (n := 8)).trans (by simp only [Color.ofBits, Color.mk.injEq])

@[simp] theorem Color.ofBits_toBits (c : Color) : Color.ofBits c.toBits = c := (eq_toBits_iff _ c).mp rfl

theorem eq_selBits_iff (v : BitVec 2) (sel : ArraySel) : v = sel.toBits ↔ ArraySel.ofBits v = some sel := by
  cases sel <;> revert v <;> decide

/-! ### A header and the words after it, read as one operation -/

theorem requireZero_eq_ok_iff {n : Nat} {v : BitVec n} {i j : Instr} : requireZero v i = .ok j ↔ v = 0#n ∧ i = j :=
  ⟨requireZero_ok, by rintro ⟨rfl, rfl⟩; exact requireZero_zero i⟩

/-- Format P: the coordinates in the header, the colour in word 1 (30_encoding.md R104). -/
theorem decodeP_eq_ok_iff {mk : Coord → Coord → Color → Instr} {h w1 : Word} {i : Instr} :
    decodeP mk h w1 = .ok i ↔ ∃ x y c, i = mk x y c ∧ operand h = packXY x y ∧ w1 = 0#8 ++ c.toBits := by
  have hw : ∀ c : Color, w1 = 0#8 ++ c.toBits ↔ w1.extractLsb' 24 8 = 0#8 ∧ Color.ofBits (w1.extractLsb' 0 24) = c :=
    fun c => eq_append_iff.trans (and_congr_right' (eq_toBits_iff _ c))
  simp only [hw, operand_eq_packXY_iff]
  refine requireZero_eq_ok_iff.trans ⟨fun ⟨hz, hi⟩ => ⟨_, _, _, hi.symm, ⟨rfl, rfl⟩, hz, rfl⟩, ?_⟩
  rintro ⟨x, y, c, rfl, ⟨rfl, rfl⟩, hz, rfl⟩
  exact ⟨hz, rfl⟩

/-- Format K: the coordinates in the header, the selector in word 1 (30_encoding.md R105). -/
theorem decodePeek_eq_ok_iff {h w1 : Word} {i : Instr} :
    decodePeek h w1 = .ok i ↔ ∃ x y sel, i = .peek x y sel ∧ operand h = packXY x y ∧ w1 = 0#30 ++ sel.toBits := by
  have hw : ∀ sel : ArraySel, w1 = 0#30 ++ sel.toBits ↔
      w1.extractLsb' 2 30 = 0#30 ∧ ArraySel.ofBits (w1.extractLsb' 0 2) = some sel :=
    fun sel => eq_append_iff.trans (and_congr_right' (eq_selBits_iff _ sel))
  simp only [hw, operand_eq_packXY_iff]
  unfold decodePeek
  cases hs : ArraySel.ofBits (w1.extractLsb' 0 2) with
  | none => simp
  | some sel =>
    refine requireZero_eq_ok_iff.trans ⟨fun ⟨hz, hi⟩ => ⟨_, _, _, hi.symm, ⟨rfl, rfl⟩, hz, rfl⟩, ?_⟩
    rintro ⟨x, y, _, rfl, ⟨rfl, rfl⟩, hz, ⟨⟩⟩
    exact ⟨hz, rfl⟩

/-- The words of a command have the length of its opcode (30_encoding.md R109). -/
theorem length_tailWords (i : Instr) : i.tailWords.length + 1 = i.op.words := by
  cases i <;> rfl

/-- A decoded command is of the header's operation, and its operands are the header's operand field and the words that
the operation's length leaves (30_encoding.md R102 to R107). -/
theorem fields_of_decodeOp {o : Op} {h w1 w2 : Word} {i : Instr} (hd : decodeOp o h w1 w2 = .ok i) :
    i.op = o ∧ operand h = i.operandBits ∧ i.tailWords = [w1, w2].take (o.words - 1) := by
  cases o with
  | driveMid | drivePost | flip | setMask =>
    obtain ⟨hz, rfl⟩ := requireZero_eq_ok_iff.mp hd
    exact ⟨rfl, hz, rfl⟩
  | set | setAdj | trySet | trySetAdj =>
    obtain ⟨x, y, c, rfl, ha, rfl⟩ := decodeP_eq_ok_iff.mp hd
    exact ⟨rfl, ha, rfl⟩
  | pulse =>
    obtain ⟨hz, rfl⟩ := requireZero_eq_ok_iff.mp hd
    exact ⟨rfl, (operand_eq_pulse_iff h _ _).mpr ⟨hz, rfl, rfl⟩, rfl⟩
  | pulse4 =>
    obtain ⟨hz, rfl⟩ := requireZero_eq_ok_iff.mp hd
    exact ⟨rfl, (operand_eq_pulse4_iff h _ _ _ _).mpr ⟨⟨hz, rfl, rfl⟩, rfl, rfl⟩, rfl⟩
  | delay =>
    cases hd
    exact ⟨rfl, rfl, rfl⟩
  | peek =>
    obtain ⟨x, y, sel, rfl, ha, rfl⟩ := decodePeek_eq_ok_iff.mp hd
    exact ⟨rfl, ha, rfl⟩
  | adjust =>
    cases hd
    exact ⟨rfl, (eq_toBits_iff _ _).mpr rfl, rfl⟩

theorem decodeOp_of_fields {i : Instr} {h w1 w2 : Word} (ha : operand h = i.operandBits)
    (ht : i.tailWords = [w1, w2].take (i.op.words - 1)) : decodeOp i.op h w1 w2 = .ok i := by
  cases i with
  | driveMid | drivePost | flip => exact requireZero_eq_ok_iff.mpr ⟨ha, rfl⟩
  | set x y c | setAdj x y c | trySet x y c | trySetAdj x y c =>
    exact decodeP_eq_ok_iff.mpr ⟨x, y, c, rfl, ha, (List.singleton_injective ht).symm⟩
  | pulse cur tgt =>
    obtain ⟨hz, rfl, rfl⟩ := (operand_eq_pulse_iff h _ _).mp ha
    exact requireZero_eq_ok_iff.mpr ⟨hz, rfl⟩
  | pulse4 cur4 tgt4 o0 o1 o2 o3 =>
    obtain ⟨⟨hz, rfl, rfl⟩, rfl, rfl⟩ := (operand_eq_pulse4_iff h _ _ _ _).mp ha
    cases ht
    exact requireZero_eq_ok_iff.mpr ⟨hz, rfl⟩
  | setMask mask =>
    cases ht
    exact requireZero_eq_ok_iff.mpr ⟨ha, rfl⟩
  | delay n =>
    cases ha
    rfl
  | peek x y sel => exact decodePeek_eq_ok_iff.mpr ⟨x, y, sel, rfl, ha, (List.singleton_injective ht).symm⟩
  | adjust c =>
    obtain rfl := (eq_toBits_iff _ _).mp ha
    rfl

/-- Of the two words a decoder looks at after the header, those of the command are the first ones of the list. -/
theorem take_getD_eq_take {n : Nat} {t : List Word} (hn : n ≤ 2) (ht : n ≤ t.length) :
    [t.getD 0 0, t.getD 1 0].take n = t.take n := by
  match n, t with
  | 0, _ => rfl
  | 1, _ :: _ => rfl
  | 2, _ :: _ :: _ => rfl

theorem Op.words_pos (o : Op) : 1 ≤ o.words := by cases o <;> decide

theorem Op.words_le (o : Op) : o.words ≤ 3 := by cases o <;> decide

theorem length_encode (i : Instr) : (encode i).length = i.op.words :=
  (Laws.Encoded.of_length (length_tailWords i)).1

/-! ### The words at the port, one lemma for each answer of the decoder -/

theorem decode_reserved {h : Word} (ho : Op.ofCode (opcode h) = none) (t : List Word) :
    decode (h :: t) = .illegal .reservedOpcode 1 := by simp only [decode, ho]

theorem decode_incomplete {h : Word} {t : List Word} {o : Op} (ho : Op.ofCode (opcode h) = some o)
    (hl : t.length + 1 < o.words) : decode (h :: t) = .incomplete := by
  simp only [decode, ho]
  exact if_pos hl

theorem decode_command {h : Word} {t : List Word} {o : Op} {i : Instr} (ho : Op.ofCode (opcode h) = some o)
    (hl : o.words ≤ t.length + 1) (hd : decodeOp o h (t.getD 0 0) (t.getD 1 0) = .ok i) :
    decode (h :: t) = .command i o.words := by rw [decode_cons ho hl, hd]

theorem decode_illegal {h : Word} {t : List Word} {o : Op} {why : Illegal} (ho : Op.ofCode (opcode h) = some o)
    (hl : o.words ≤ t.length + 1) (hd : decodeOp o h (t.getD 0 0) (t.getD 1 0) = .error why) :
    decode (h :: t) = .illegal why o.words := by rw [decode_cons ho hl, hd]

/-- A list with a word in it decodes in one of four ways, as its header's opcode and its length say. -/
theorem decode_cons_cases (h : Word) (t : List Word) :
    (Op.ofCode (opcode h) = none ∧ decode (h :: t) = .illegal .reservedOpcode 1) ∨
    ∃ o, Op.ofCode (opcode h) = some o ∧
      (t.length + 1 < o.words ∧ decode (h :: t) = .incomplete ∨
      o.words ≤ t.length + 1 ∧
        ((∃ why, decode (h :: t) = .illegal why o.words) ∨
        ∃ i, decodeOp o h (t.getD 0 0) (t.getD 1 0) = .ok i ∧ decode (h :: t) = .command i o.words)) := by
  cases ho : Op.ofCode (opcode h) with
  | none => exact .inl ⟨rfl, decode_reserved ho t⟩
  | some o =>
    refine .inr ⟨o, rfl, ?_⟩
    obtain hl | hl := Nat.lt_or_ge (t.length + 1) o.words
    · exact .inl ⟨hl, decode_incomplete ho hl⟩
    · refine .inr ⟨hl, ?_⟩
      cases hd : decodeOp o h (t.getD 0 0) (t.getD 1 0) with
      | error why => exact .inl ⟨why, decode_illegal ho hl hd⟩
      | ok i => exact .inr ⟨i, rfl, decode_command ho hl hd⟩

/-- The decoder and the encoder are inverse: a list of words decodes to a command exactly if it begins with that
command's words. -/
theorem decode_eq_command_iff {ws : List Word} {i : Instr} {n : Nat} :
    decode ws = .command i n ↔ n = (encode i).length ∧ encode i <+: ws := by
  constructor
  · intro hd
    cases ws with
    | nil => cases hd
    | cons h t =>
      obtain ⟨-, h'⟩ | ⟨o, ho, ⟨-, h'⟩ | ⟨hl, ⟨why, h'⟩ | ⟨j, hj, h'⟩⟩⟩ := decode_cons_cases h t <;>
        cases h'.symm.trans hd
      obtain ⟨rfl, ha, ht⟩ := fields_of_decodeOp hj
      have hw := i.op.words_le
      rw [take_getD_eq_take (by omega) (by omega)] at ht
      refine ⟨(length_encode i).symm, ?_⟩
      rw [encode, ← ha, header_of_fields _ _ (Op.code_of_ofCode ho), List.cons_prefix_cons, ht]
      exact ⟨rfl, List.take_prefix _ _⟩
  · rintro ⟨rfl, rest, rfl⟩
    have hlen := length_tailWords i
    have hw := i.op.words_le
    have htail : i.tailWords.length ≤ (i.tailWords ++ rest).length := by simp
    rw [length_encode]
    change decode (header i.op i.operandBits :: (i.tailWords ++ rest)) = _
    refine decode_command (by simp) (by omega) (decodeOp_of_fields (operand_header _ _) ?_)
    rw [← hlen, Nat.add_sub_cancel, take_getD_eq_take (by omega) htail, List.take_left]

/-- Settles O1: the decoder looks at no word after the command's own. -/
theorem decodeOfEncodeIsTheCommand : Obligations.DecodeOfEncodeIsTheCommand := fun _ rest =>
  decode_eq_command_iff.mpr ⟨rfl, List.prefix_append _ rest⟩

/-- Settles O2: the words begin with the encoding, so taking its length of them gives it. -/
theorem encodeOfDecodeIsTheWords : Obligations.EncodeOfDecodeIsTheWords := fun ws i n hd => by
  obtain ⟨rfl, hpre⟩ := decode_eq_command_iff.mp hd
  exact ⟨rfl, (List.prefix_iff_eq_take.mp hpre).symm⟩

/-! ### Programs (30_encoding.md R117) -/

theorem parseWords_command {fuel n : Nat} {ws : List Word} {i : Instr} (hd : decode ws = .command i n) :
    parseWords (fuel + 1) ws = (parseWords fuel (ws.drop n)).map (Item.command i :: ·) := by
  cases ws with
  | nil => cases hd
  | cons h t => simp only [parseWords, hd]

theorem parseWords_encodeProgram (is : List Instr) {fuel : Nat} (hf : is.length ≤ fuel) :
    parseWords fuel (encodeProgram is) = some (is.map Item.command) := by
  induction is generalizing fuel with
  | nil => cases fuel <;> rfl
  | cons i is ih =>
    cases fuel with
    | zero => cases hf
    | succ fuel =>
      change parseWords (fuel + 1) (encode i ++ encodeProgram is) = _
      rw [parseWords_command (decodeOfEncodeIsTheCommand i _), List.drop_left, ih (Nat.le_of_succ_le_succ hf)]
      rfl

/-- Every command has a header, so a program has at least as many words as commands. -/
theorem length_le_length_encodeProgram (is : List Instr) : is.length ≤ (encodeProgram is).length := by
  induction is with
  | nil => exact Nat.le_refl 0
  | cons i is ih =>
    change is.length + 1 ≤ (encode i ++ encodeProgram is).length
    rw [List.length_append, length_encode]
    have := i.op.words_pos
    omega

/-- Settles O4: by induction on the commands, each of which takes one unit of the fuel. -/
theorem programParsesIntoItsCommands : Obligations.ProgramParsesIntoItsCommands := fun is =>
  parseWords_encodeProgram is (length_le_length_encodeProgram is)

/-! ### Illegal commands (30_encoding.md R110, R111, R118) -/

/-- The opcodes that name an operation are 0x01 to 0x0D (30_encoding.md R108). -/
theorem Op.code_range (o : Op) : 1 ≤ o.code.toNat ∧ o.code.toNat ≤ 0x0D := by cases o <;> decide

theorem Op.ofCode_eq_none {c : BitVec 8} (hc : c = 0x00#8 ∨ 0x0E ≤ c.toNat) : Op.ofCode c = none := by
  by_contra hne
  obtain ⟨o, ho⟩ := Option.ne_none_iff_exists'.mp hne
  obtain rfl := Op.code_of_ofCode ho
  have hr := o.code_range
  rcases hc with h0 | hge
  · rw [h0] at hr
    exact absurd hr.1 (by decide)
  · omega

/-- Settles O5: a reserved opcode lies outside `Op.code_range`. -/
theorem reservedOpcodeIsIllegalOfOneWord : Obligations.ReservedOpcodeIsIllegalOfOneWord :=
  ⟨fun _ t hop => decode_reserved (Op.ofCode_eq_none hop) t,
    decode_reserved (by decide), decode_reserved (by decide)⟩

theorem requireZero_of_ne {n : Nat} {v : BitVec n} (hv : v ≠ 0#n) (i : Instr) :
    requireZero v i = .error .fieldNotZero := if_neg hv

/-- A PEEK with a bad word 1 is no command. -/
theorem decodePeek_bad_word {h w1 : Word} (hw : w1.extractLsb' 2 30 ≠ 0#30 ∨ w1.extractLsb' 0 2 = 3#2) :
    ∃ why, decodePeek h w1 = .error why := by
  unfold decodePeek
  cases hs : ArraySel.ofBits (w1.extractLsb' 0 2) with
  | none => exact ⟨_, rfl⟩
  | some sel =>
    rcases hw with hz | h3
    · exact ⟨_, requireZero_of_ne hz _⟩
    · rw [h3] at hs
      cases hs

theorem Machine.inRange_eq_false_iff {p : Params} {x y : Coord} :
    Machine.inRange p x y = false ↔ ¬ (x.toNat < p.width ∧ y.toNat < p.height) := by
  rw [← Machine.inRange_iff, Bool.not_eq_true]

/-- A bad field is found by the decoder, but for a PEEK of a pixel off the panel, which is decoded. -/
theorem decodeOp_bad_fields {p : Params} {o : Op} {h w1 : Word} (hb : Claims.BadFields p o h w1) (w2 : Word) :
    (∃ why, decodeOp o h w1 w2 = .error why) ∨
    ∃ x y sel, decodeOp o h w1 w2 = .ok (.peek x y sel) ∧ Machine.inRange p x y = false := by
  cases o with
  | driveMid | drivePost | flip | setMask | pulse | pulse4 | set | setAdj | trySet | trySetAdj =>
    exact .inl ⟨_, requireZero_of_ne (by simpa [Claims.BadFields, Op.format, operand] using hb) _⟩
  | delay | adjust => simp [Claims.BadFields, Op.format] at hb
  | peek =>
    obtain hw | hoff : (w1.extractLsb' 2 30 ≠ 0#30 ∨ w1.extractLsb' 0 2 = 3#2) ∨
        (p.width ≤ (fieldX h).toNat ∨ p.height ≤ (fieldY h).toNat) := by
      simpa [Claims.BadFields, Op.format, fieldX, fieldY, or_assoc] using hb
    · exact .inl (decodePeek_bad_word hw)
    · cases hd : decodePeek h w1 with
      | error why => exact .inl ⟨why, hd⟩
      | ok i =>
        obtain ⟨x, y, sel, rfl, ha, -⟩ := decodePeek_eq_ok_iff.mp hd
        obtain ⟨rfl, rfl⟩ := (operand_eq_packXY_iff h x y).mp ha
        exact .inr ⟨_, _, sel, hd, Machine.inRange_eq_false_iff.mpr (by omega)⟩

end Sys2Proof

namespace Sys2Proof.Machine

theorem step_command {s : State} {i : Instr} {n : Nat} (hr : s.resetIn = false) (hb : s.busy = none)
    (hd : decode s.port = .command i n) : step s = exec i (consume n s) := by
  rw [step_idle hr hb]
  simp only [nextCommand, hd]

theorem step_illegal {s : State} {why : Illegal} {n : Nat} (hr : s.resetIn = false) (hb : s.busy = none)
    (hd : decode s.port = .illegal why n) : step s = .next (answerIllegal (consume n s)) := by
  rw [step_idle hr hb]
  simp only [nextCommand, hd]

/-- Settles O10: it is `step_command`, with `consume` written out. -/
theorem stepRunsTheDecodedCommand : Obligations.StepRunsTheDecodedCommand := fun _ _ _ => step_command

/-- Settles O6: the decoder finds the bad field, or PEEK does; either answer is `answerIllegal`. -/
theorem badFieldsAnswerIllegal : Obligations.BadFieldsAnswerIllegal := by
  intro s o h t hr hb hport ho hl hbad
  obtain ⟨why, hd⟩ | ⟨x, y, sel, hd, hoff⟩ := decodeOp_bad_fields hbad (t.getD 1 0)
  · exact step_illegal hr hb (hport ▸ decode_illegal ho hl hd)
  · rw [step_command hr hb (hport ▸ decode_command ho hl hd)]
    exact execPeek_offPanel (s := consume o.words s) hoff sel

/-- Settles O7: both kinds of illegal command are answered by `answerIllegal`, and `decode_cons_cases` is exhaustive. -/
theorem illegalCommandOnlyAnswers : Obligations.IllegalCommandOnlyAnswers := by
  refine ⟨fun _ _ _ => step_illegal, fun _ _ _ sel hoff => execPeek_offPanel (inRange_eq_false_iff.mpr hoff) sel, ?_⟩
  intro h t
  obtain ⟨-, hd⟩ | ⟨o, ho, ⟨hl, hd⟩ | ⟨-, ⟨why, hd⟩ | ⟨i, hi, hd⟩⟩⟩ := decode_cons_cases h t
  · exact .inr (.inl ⟨_, _, hd⟩)
  · exact .inr (.inr ⟨o, ho, hl, hd⟩)
  · exact .inr (.inl ⟨_, _, hd⟩)
  · obtain ⟨rfl, -, -⟩ := fields_of_decodeOp hi
    exact .inl ⟨i, hd, Op.code_of_ofCode ho⟩

/-! ### The assembler (30_encoding.md R115, R116) -/

/-- A field written as a number is read back. -/
@[simp] theorem field_toNat {n : Nat} (v : BitVec n) : field n v.toNat = some v := by
  simp [field, v.isLt]

theorem asmPixel_operands (mk : Coord → Coord → Color → Instr) (x y : Coord) (c : Color) :
    asmPixel mk [operandOf x, operandOf y, operandOf c.toBits] = some (mk x y c) := by
  simp [asmPixel, operandOf]

/-- Settles O8: the mnemonics differ, and every operand is read back by `field_toNat`. -/
theorem assemblerFormReadsBack : Obligations.AssemblerFormReadsBack := by
  intro p i
  cases i with
  | driveMid | drivePost | flip => rfl
  | set x y c | setAdj x y c | trySet x y c | trySetAdj x y c => exact asmPixel_operands _ x y c
  | pulse | pulse4 | setMask | delay | peek | adjust => simp [asmOf, assemble, operandOf]

/-- A line, a command and its words that are one another's forms agree whichever of the three is read. -/
theorem forms_agree {l : List (AsmLine × Instr × List Word)}
    (h : ∀ q ∈ l, asmOf q.2.1 = q.1 ∧ encode q.2.1 = q.2.2) (p : Params) : ∀ q ∈ l,
    assemble p q.1 = some q.2.1 ∧ encode q.2.1 = q.2.2 ∧ decode q.2.2 = .command q.2.1 q.2.2.length := by
  intro q hq
  obtain ⟨hl, hw⟩ := h q hq
  rw [← hl, ← hw]
  exact ⟨assemblerFormReadsBack p _, rfl, decode_eq_command_iff.mpr ⟨rfl, List.prefix_rfl⟩⟩

/-- Settles O3: line and words are computed from the command; that they read back is O8 and O1. -/
theorem workedEncodingsDecode : Obligations.WorkedEncodingsDecode := forms_agree (by decide)

theorem rateOk_two_pow {rtcHz k : Nat} (hk : 2 ^ k ≤ rtcHz) : rateOk rtcHz (2 ^ k) = true := by
  simp [rateOk, Nat.log2_two_pow, hk]

/-- The delay's cycles are the least number whose time is at least that asked for (41_delay.md R143). -/
theorem delayNsCycles_le_iff {fCpu ns m : Nat} : delayNsCycles fCpu ns ≤ m ↔ ns * fCpu ≤ m * 10 ^ 9 := by
  unfold delayNsCycles
  omega

/-- Settles O9: the least number of cycles is `delayNsCycles`. -/
theorem pseudoInstructionsExpandToOneCommand : Obligations.PseudoInstructionsExpandToOneCommand := by
  refine ⟨fun p k hk => if_pos (rateOk_two_pow hk), ?_, fun _ _ _ _ _ _ => ⟨rfl, rfl⟩⟩
  intro p ns n hn hleast
  obtain rfl : delayNsCycles p.fCpu ns = n :=
    Nat.le_antisymm (delayNsCycles_le_iff.mpr hn) (hleast _ (delayNsCycles_le_iff.mp (Nat.le_refl _)))
  refine ⟨fun hfits => ⟨_, ?_, if_pos hfits⟩, fun hlong => if_neg (Nat.not_le.mpr hlong)⟩
  exact (BitVec.toNat_ofNat _ _).trans (Nat.mod_eq_of_lt (Nat.lt_succ_of_le hfits))

end Sys2Proof.Machine
end

section
/-! The rules of the colour model (40_color_model.md). One channel of `adjust` in numbers (`adjustChannel_toNat`) and the
fields of a packed colour give ADJUST. A ratio of at most 1 is legal, and under it the channel climbs from 0 in steps of at
most 1 and so takes every value up to its last, which counts the values of the laws of the default `adjust`. -/

namespace Sys2Proof.Machine

/-! ### ADJUST (40_color_model.md R130, R131) -/

/-- A legal ratio keeps the exact quotient within the byte. -/
theorem adjustChannel_toNat {r : Ratio} (hr : r.wf) (v : Byte) :
    (adjustChannel r v).toNat = v.toNat * r.num / r.den := by
  have hv : v.toNat * r.num ≤ 255 * r.num := Nat.mul_le_mul_right _ (Nat.le_of_lt_succ v.isLt)
  have hq : v.toNat * r.num / r.den ≤ 255 := (Nat.div_le_div_right hv).trans hr.2
  exact (BitVec.toNat_ofNat _ _).trans (Nat.mod_eq_of_lt (Nat.lt_succ_of_le hq))

/-- The four bytes of a colour as a response value (30_encoding.md R112). -/
theorem colorValue_fields (c : Color) :
    (colorValue c).extractLsb' 24 8 = 0#8 ∧ (colorValue c).extractLsb' 16 8 = c.r ∧
    (colorValue c).extractLsb' 8 8 = c.g ∧ (colorValue c).extractLsb' 0 8 = c.b := by
  obtain ⟨hhigh, hg, hb⟩ := (eq_append_append_iff (l := 16) (m := 8) (n := 8)).mp (rfl : colorValue c = _)
  obtain ⟨hzero, hr⟩ := (eq_append_iff (m := 8) (n := 8)).mp hhigh
  rw [extractLsb'_extractLsb' _ (by decide)] at hzero hr
  exact ⟨hzero, hr, hg, hb⟩

/-- Settles O14: the value is the adjusted colour packed, each of its channels an exact quotient. -/
theorem adjustReturnsTheScaledChannels : Obligations.AdjustReturnsTheScaledChannels := by
  intro s c hwf
  obtain ⟨-, -, -, -, -, hred, hgreen, hblue⟩ := hwf
  obtain ⟨hzero, hr, hg, hb⟩ := colorValue_fields (adjust s.cfg c)
  refine ⟨colorValue (adjust s.cfg c), rfl, hzero, ?_, ?_, ?_⟩
  · rw [hr]
    exact adjustChannel_toNat hred c.r
  · rw [hg]
    exact adjustChannel_toNat hgreen c.g
  · rw [hb]
    exact adjustChannel_toNat hblue c.b

/-! ### The laws of a ratio of at most 1 (40_color_model.md R132) -/

theorem adjustChannel_mono {r : Ratio} (hr : r.wf) {v w : Byte} (hvw : v ≤ w) :
    adjustChannel r v ≤ adjustChannel r w := by
  rw [BitVec.le_def, adjustChannel_toNat hr, adjustChannel_toNat hr]
  exact Nat.div_le_div_right (Nat.mul_le_mul_right _ hvw)

theorem adjustChannel_one (v : Byte) : adjustChannel ⟨1, 1⟩ v = v := by
  simp [adjustChannel]

/-- A function that starts at 0 and climbs by at most 1 takes every value up to its last. -/
theorem image_range_of_steps {f : Nat → Nat} (hzero : f 0 = 0) (hstep : ∀ n, f (n + 1) = f n ∨ f (n + 1) = f n + 1)
    (n : Nat) : (Finset.range (n + 1)).image f = Finset.range (f n + 1) := by
  induction n with
  | zero => simp [hzero]
  | succ n ih =>
    rw [Finset.range_add_one, Finset.image_insert, ih]
    rcases hstep n with h | h
    · rw [h, Finset.insert_eq_of_mem (Finset.self_mem_range_succ _)]
    · rw [h, Finset.range_add_one (n := f n + 1)]

section
variable {r : Ratio} (hle : r.num ≤ r.den)
include hle

theorem scaled_le (n : Nat) : n * r.num / r.den ≤ n :=
  Nat.div_le_of_le_mul (by rw [Nat.mul_comm]; exact Nat.mul_le_mul_right _ hle)

variable (hden : 0 < r.den)
include hden

theorem ratioWf_of_num_le_den : r.wf := ⟨hden, scaled_le hle 255⟩

theorem adjustChannel_le (v : Byte) : adjustChannel r v ≤ v := by
  rw [BitVec.le_def, adjustChannel_toNat (ratioWf_of_num_le_den hle hden)]
  exact scaled_le hle v.toNat

theorem scaled_succ (n : Nat) :
    (n + 1) * r.num / r.den = n * r.num / r.den ∨ (n + 1) * r.num / r.den = n * r.num / r.den + 1 := by
  have hlow : n * r.num / r.den ≤ (n + 1) * r.num / r.den :=
    Nat.div_le_div_right (Nat.mul_le_mul_right _ (Nat.le_succ n))
  have hhigh : (n + 1) * r.num / r.den ≤ n * r.num / r.den + 1 :=
    calc (n + 1) * r.num / r.den = (n * r.num + r.num) / r.den := by rw [Nat.succ_mul]
      _ ≤ (n * r.num + r.den) / r.den := Nat.div_le_div_right (Nat.add_le_add_left hle _)
      _ = n * r.num / r.den + 1 := Nat.add_div_right _ hden
  omega

/-- The 256 inputs of a channel map to all values from 0 to that of the input 255. -/
theorem adjustChannel_count :
    ((List.range 256).map fun v => adjustChannel r (BitVec.ofNat 8 v)).dedup.length = 255 * r.num / r.den + 1 := by
  have hvalue : Set.EqOn (BitVec.toNat ∘ fun v => adjustChannel r (BitVec.ofNat 8 v)) (fun v => v * r.num / r.den)
      (Finset.range 256) := by
    intro v hv
    have hlt : v < 256 := Finset.mem_range.mp hv
    simp [adjustChannel_toNat (ratioWf_of_num_le_den hle hden), Nat.mod_eq_of_lt hlt]
  calc ((List.range 256).map fun v => adjustChannel r (BitVec.ofNat 8 v)).dedup.length
      = ((Finset.range 256).image fun v => adjustChannel r (BitVec.ofNat 8 v)).card := rfl
    _ = (((Finset.range 256).image fun v => adjustChannel r (BitVec.ofNat 8 v)).image BitVec.toNat).card :=
        (Finset.card_image_of_injective _ BitVec.toNat_injective).symm
    _ = ((Finset.range 256).image fun v => v * r.num / r.den).card := by
        rw [Finset.image_image, Finset.image_congr hvalue]
    _ = (Finset.range (255 * r.num / r.den + 1)).card :=
        congrArg _ (image_range_of_steps (by simp) (scaled_succ hle hden) 255)
    _ = 255 * r.num / r.den + 1 := Finset.card_range _

end

/-- Settles O15: the laws of a ratio of at most 1, at 1/1, 29/50 and 29/70. -/
theorem defaultAdjustLaws : Obligations.DefaultAdjustLaws := by
  rintro p ⟨hred, hgreen, hblue⟩
  have hgreenWf : (⟨29, 50⟩ : Ratio).wf := by decide
  have hblueWf : (⟨29, 70⟩ : Ratio).wf := by decide
  simp only [adjust, hred, hgreen, hblue, adjustChannel_one]
  refine ⟨?_, ?_, ?_, ?_, ?_, fun _ => trivial⟩
  · exact fun c d => ⟨id, congrArg _, congrArg _⟩
  · exact fun c d => ⟨id, adjustChannel_mono hgreenWf, adjustChannel_mono hblueWf⟩
  · refine fun c => ⟨BitVec.le_refl _, adjustChannel_le (by decide) (by decide) c.g,
      adjustChannel_le (by decide) (by decide) c.b, ?_, ?_⟩
    · rw [adjustChannel_toNat hgreenWf, Nat.mul_comm]
    · rw [adjustChannel_toNat hblueWf, Nat.mul_comm]
  · exact adjustChannel_count (by decide) (by decide)
  · exact adjustChannel_count (by decide) (by decide)

end Sys2Proof.Machine
end

section
/-! The rules of the delay (41_delay.md). What a round of DELAY makes of the whole state is one of two equations,
by what its sample shows. The bound on the true cycles is a property that every step keeps: the delay is still under way,
or its true cycles have passed. -/

namespace Sys2Proof.Machine

/-! ### One round (41_delay.md R141, R142) -/

theorem step_delay {s : State} {n : BitVec 24} {start : Word} (hr : s.resetIn = false)
    (hb : s.busy = some (.delay n start)) : step s = .next (pollDelay n start s) := step_busy hr hb

section
variable {n : BitVec 24} {start : Word} {s : State}

/-- A sample that shows fewer than n cycles keeps the command in progress. -/
theorem pollDelay_of_lt (h : (Claims.cycSample s - start).toNat < n.toNat) :
    pollDelay n start s = { s with cyc := Claims.cycAfter s, busy := some (.delay n start) } :=
  pollDelay_waits (decide_eq_false (Nat.not_le.mpr h))

/-- A sample that shows n cycles ends the command. -/
theorem pollDelay_of_le (h : n.toNat ≤ (Claims.cycSample s - start).toNat) :
    pollDelay n start s =
      { s with cyc := Claims.cycAfter s, busy := none, responses := s.responses ++ [⟨.ok, false, 0, 0⟩] } :=
  pollDelay_returns (decide_eq_true h)

end

/-- Settles O16: the round after the start sample returns, and DELAY 0 asks for no cycles. -/
theorem delayReturnsOnceTheCyclesHavePassed : Obligations.DelayReturnsOnceTheCyclesHavePassed :=
  ⟨fun s _ hle => congrArg _ (pollDelay_of_le (s := sampleCyc s) hle),
    fun s => congrArg Host.Outcome.next (pollDelay_of_le (n := 0) (s := sampleCyc s) (Nat.zero_le _))⟩

/-- Settles O17: the round that waits leaves `busy` as DELAY set it. -/
theorem delayWaitsUntilTheCyclesHavePassed : Obligations.DelayWaitsUntilTheCyclesHavePassed := by
  refine ⟨fun s n hlt => congrArg _ (pollDelay_of_lt (s := sampleCyc s) hlt), fun s n start hr hb => ?_⟩
  rw [step_delay hr hb]
  refine ⟨fun hlt => ?_, fun hle => congrArg _ (pollDelay_of_le hle)⟩
  rw [pollDelay_of_lt hlt, ← hb]

/-! ### The true cycles of a delay (41_delay.md R142, 10_state.md R45) -/

/-- A run of any machine keeps what its steps keep. -/
theorem hostRun_keeps (M : Host.Core) {P : M.State → Prop} (hstep : ∀ s t, P s → M.step s = .next t → P t) {k : Nat}
    {s t : M.State} (hs : P s) (h : M.run k s = .next t) : P t := by
  induction k generalizing s with
  | zero =>
    cases h
    exact hs
  | succ k ih =>
    unfold Host.Core.run at h
    split at h
    case h_1 u hu => exact ih (hstep s u hs hu) h
    case h_2 => cases h
    case h_3 => cases h

/-- A run keeps what every step keeps. -/
theorem run_keeps {P : State → Prop} (hstep : ∀ s t, P s → step s = .next t → P t) {k : Nat} {s t : State} (hs : P s)
    (h : core.run k s = .next t) : P t := hostRun_keeps core hstep hs h

/-- The DELAY n whose start sample was taken at the true count `T0` is in progress, and `rs` are still the responses. -/
structure DelayUnderWay (n : BitVec 24) (T0 : Nat) (rs : List Response) (s : State) : Prop where
  started : T0 ≤ s.cyc.count
  resetIn : s.resetIn = false
  busy : s.busy = some (.delay n (BitVec.ofNat 32 T0))
  responses : s.responses = rs

/-- That DELAY is still in progress, or its true cycles have passed. -/
def DelayBound (n : BitVec 24) (T0 : Nat) (rs : List Response) (s : State) : Prop :=
  DelayUnderWay n T0 rs s ∨ T0 + n.toNat ≤ s.cyc.count

/-- A round ends only if the elapsed time, which is at most the true one, reaches n. -/
theorem delayBound_pollDelay {n : BitVec 24} {T0 : Nat} {s : State} (hstart : T0 ≤ s.cyc.count)
    (hr : s.resetIn = false) : DelayBound n T0 s.responses (pollDelay n (BitVec.ofNat 32 T0) s) := by
  have hsample : T0 ≤ (Claims.cycAfter s).count := hstart.trans (Counter.count_le_tick _ _)
  obtain hlt | hle := Nat.lt_or_ge (Claims.cycSample s - BitVec.ofNat 32 T0).toNat n.toNat
  · rw [pollDelay_of_lt hlt]
    exact .inl ⟨hsample, hr, rfl, rfl⟩
  · rw [pollDelay_of_le hle]
    exact .inr ((Nat.le_sub_iff_add_le' hsample).mp (hle.trans (elapsed_le_true hsample)))

/-- A DELAY under way has its next round; afterwards it is enough that true counts never decrease. -/
theorem delayBound_step {n : BitVec 24} {T0 : Nat} {rs : List Response} (s t : State) (hs : DelayBound n T0 rs s)
    (h : step s = .next t) : DelayBound n T0 rs t := by
  obtain ⟨hstart, hr, hb, rfl⟩ | hpast := hs
  · rw [step_delay hr hb] at h
    cases h
    exact delayBound_pollDelay hstart hr
  · exact .inr (hpast.trans (trueCountsNeverDecrease s t h).1)

/-- Settles O18: the bound holds after the first round and along the run, and a response means no longer under way. -/
theorem delayLastsAtLeastItsTrueCycles : Obligations.DelayLastsAtLeastItsTrueCycles := by
  intro k n s u t hr hexec hrun hresp
  cases hexec
  have hfirst : DelayBound n (Claims.cycAfter s).count s.responses (pollDelay n (sampleCyc s).cycNow (sampleCyc s)) :=
    delayBound_pollDelay (s := sampleCyc s) (Nat.le_refl _) hr
  obtain hwait | hpast := run_keeps delayBound_step hfirst hrun
  · exact absurd hresp (hwait.responses ▸ Nat.lt_irrefl _)
  · exact hpast

end Sys2Proof.Machine
end

section
/-! The rules of the PDM engine (42_pdm.md). One step conserves `256 * bit + accumulator = current + target`
(`pulse_conserves`), so a run conserves its total (`pulseRun_conserves`), and the duty counts are quotients. One lemma for
the lanes of a packed word gives PULSE4 and the batched line step, and the bit of a column in the line's mask is its carry,
which turns the stream on a pin into a run of scalar steps. -/

namespace Sys2Proof.Machine

/-! ### The scalar step (R150, R151) -/

/-- The accumulator is the wraparound sum of the scalar fallback. -/
theorem pulseAcc_eq_add (cur tgt : Byte) : pulseAcc cur tgt = cur + tgt :=
  BitVec.eq_of_toNat_eq ((pulseAcc_toNat cur tgt).trans (BitVec.toNat_add cur tgt).symm)

/-- The wraparound sum falls below `current` exactly when the exact sum reaches 256. -/
theorem pulseBit_eq_comparison (cur tgt : Byte) : pulseBit cur tgt = decide ((cur + tgt).toNat < cur.toNat) := by
  have hcur := cur.isLt
  have htgt := tgt.isLt
  rw [Bool.eq_iff_iff, pulseBit_iff, decide_eq_true_iff, BitVec.toNat_add]
  omega

/-- Settles O20: the numbers of the 9-bit sum give both forms. -/
theorem carryFormAndComparisonFormAgree : Obligations.CarryFormAndComparisonFormAgree := by
  refine ⟨fun cur tgt => ⟨pulseSum_toNat cur tgt, pulseAcc_toNat cur tgt, pulseBit_iff cur tgt, pulseAcc_eq_add cur tgt,
    pulseBit_eq_comparison cur tgt⟩, fun cur => ?_⟩
  simp [pulseAcc_eq_add, pulseBit_eq_comparison]

/-- The fields of the response value of PULSE (30_encoding.md R112). -/
theorem pulseValue_fields (cur tgt : Byte) :
    (pulseValue cur tgt).extractLsb' 9 23 = 0#23 ∧
    (pulseValue cur tgt).extractLsb' 8 1 = BitVec.ofBool (pulseBit cur tgt) ∧
    (pulseValue cur tgt).extractLsb' 0 8 = pulseAcc cur tgt :=
  (eq_append_append_iff (l := 23) (m := 1) (n := 8)).mp rfl

theorem pulseValue_getLsbD_eight (cur tgt : Byte) : (pulseValue cur tgt).getLsbD 8 = pulseBit cur tgt := by
  obtain ⟨-, hbit, -⟩ := pulseValue_fields cur tgt
  simpa using congrArg (·.getLsbD 0) hbit

/-- Settles O19: the value is `pulseValue`, read field by field. -/
theorem pulseReturnsCarryAndRemainder : Obligations.PulseReturnsCarryAndRemainder := by
  intro s cur tgt
  obtain ⟨hzero, -, hacc⟩ := pulseValue_fields cur tgt
  refine ⟨pulseValue cur tgt, rfl, hzero, ?_, ?_⟩
  · rw [pulseValue_getLsbD_eight, pulseBit_iff]
  · rw [hacc, pulseAcc_toNat]

/-! ### Four lanes at once (R152 to R154) -/

/-- Four bytes packed are read back lane by lane (20_memory.md R73). -/
theorem lane_packLanes (b : Nat → Byte) {k : Nat} (hk : k < 4) : lane (packLanes (b 3) (b 2) (b 1) (b 0)) k = b k := by
  obtain ⟨hhigh, h1, h0⟩ := (eq_append_append_iff (l := 16) (m := 8) (n := 8)).mp
    (rfl : packLanes (b 3) (b 2) (b 1) (b 0) = _)
  obtain ⟨h3, h2⟩ := (eq_append_iff (m := 8) (n := 8)).mp hhigh
  rw [extractLsb'_extractLsb' _ (by decide)] at h3 h2
  match k, hk with
  | 0, _ => exact h0
  | 1, _ => exact h1
  | 2, _ => exact h2
  | 3, _ => exact h3

/-- A lane of the packed accumulators is the scalar step of that lane. -/
theorem lane_pulse4Acc (cur4 tgt4 : Word) {k : Nat} (hk : k < 4) :
    lane (pulse4Acc cur4 tgt4) k = pulseAcc (lane cur4 k) (lane tgt4 k) :=
  lane_packLanes (fun k => pulseAcc (lane cur4 k) (lane tgt4 k)) hk

/-- A bit of the mask is the carry of some lane at that offset. -/
theorem pulse4Mask_getLsbD_iff (cur4 tgt4 : Word) (o : Fin 4 → Offset) (j : Nat) :
    (pulse4Mask cur4 tgt4 (o 0) (o 1) (o 2) (o 3)).getLsbD j = true ↔
      ∃ k : Fin 4, (o k).toNat = j ∧ pulseBit (lane cur4 k) (lane tgt4 k) = true := by
  simp [pulse4Mask, getLsbD_bitAt, Fin.exists_fin_succ, or_assoc, and_comm]

/-- Settles O21: the two words of the answer, lane by lane and bit by bit. -/
theorem pulseFourIsFourPulses : Obligations.PulseFourIsFourPulses := fun _ cur4 tgt4 o =>
  ⟨_, _, rfl, fun k => lane_pulse4Acc cur4 tgt4 k.isLt, pulse4Mask_getLsbD_iff cur4 tgt4 o⟩

/-! ### Runs of one pixel-channel (R156 to R159) -/

/-- A step splits the exact sum into its output bit and the remainder it keeps. -/
theorem pulse_conserves (cur tgt : Byte) :
    256 * (pulseBit cur tgt).toNat + (pulseAcc cur tgt).toNat = cur.toNat + tgt.toNat := by
  have hcur := cur.isLt
  have htgt := tgt.isLt
  rw [pulseAcc_toNat]
  by_cases hcarry : 256 ≤ cur.toNat + tgt.toNat
  · rw [(pulseBit_iff cur tgt).mpr hcarry, Bool.toNat_true]
    omega
  · rw [Bool.eq_false_of_not_eq_true (mt (pulseBit_iff cur tgt).mp hcarry), Bool.toNat_false]
    omega

/-- So does a run: what its high bits and its last accumulator hold is what was put in. -/
theorem pulseRun_conserves (t a : Byte) (n : Nat) :
    256 * (pulseRun t n a).1 + (pulseRun t n a).2.toNat = a.toNat + n * t.toNat := by
  induction n generalizing a with
  | zero => simp [pulseRun]
  | succ n ih =>
    have hstep := pulse_conserves a t
    have hrest := ih (pulseAcc a t)
    simp only [pulseRun, Nat.succ_mul n]
    omega

theorem pulseRun_count (t a : Byte) (n : Nat) : (pulseRun t n a).1 = (a.toNat + n * t.toNat) / 256 := by
  have htotal := pulseRun_conserves t a n
  have hacc := (pulseRun t n a).2.isLt
  omega

theorem pulseRun_acc_toNat (t a : Byte) (n : Nat) : (pulseRun t n a).2.toNat = (a.toNat + n * t.toNat) % 256 := by
  have htotal := pulseRun_conserves t a n
  have hacc := (pulseRun t n a).2.isLt
  omega

/-- 256 steps give exactly t high bits and return the accumulator (R157). -/
theorem pulseRun_period (t a : Byte) : pulseRun t 256 a = (t.toNat, a) := by
  have ha := a.isLt
  refine Prod.ext ?_ (BitVec.eq_of_toNat_eq ?_)
  · rw [pulseRun_count]
    dsimp only
    omega
  · rw [pulseRun_acc_toNat]
    dsimp only
    omega

/-- Settles O22: the count is a quotient, and the accumulator adds less than 256 to its dividend. -/
theorem pulseRunHasTheExactDutyCount : Obligations.PulseRunHasTheExactDutyCount := by
  refine ⟨fun t a n => ⟨pulseRun_count t a n, pulseRun_acc_toNat t a n⟩, pulseRun_period, fun t a n => ?_⟩
  have ha := a.isLt
  have hzero : (0 : Byte).toNat = 0 := rfl
  simp only [pulseRun_count, hzero]
  omega

/-- A window holds both values if its targets, and what they leave short of 256, each add up to a whole step. -/
theorem pulseRun_mixed {t a : Byte} {n : Nat} (hones : 256 ≤ n * t.toNat) (hzeros : 256 ≤ n * (256 - t.toNat)) :
    0 < (pulseRun t n a).1 ∧ (pulseRun t n a).1 < n := by
  have ha := a.isLt
  have ht := t.isLt
  have hsum : n * t.toNat + n * (256 - t.toNat) = n * 256 := by
    rw [← Nat.mul_add, Nat.add_sub_cancel' ht.le]
  rw [pulseRun_count]
  omega

/-- A multiple of the gcd reaches 256 within the bound of R159. -/
theorem le_burst_mul {g u : Nat} (hg : g ∣ 256) (hu : g ≤ u) : 256 ≤ (256 / g + 2) * u :=
  calc 256 = 256 / g * g := (Nat.div_mul_cancel hg).symm
    _ ≤ (256 / g + 2) * u := Nat.mul_le_mul (Nat.le_add_right _ 2) hu

/-- Settles O23: the gcd divides the target and what it leaves short of 256. -/
theorem pulseRunHasNoLongBurst : Obligations.PulseRunHasNoLongBurst := by
  intro t a ht
  have hpos : 0 < t.toNat := Nat.pos_of_ne_zero fun h => ht (BitVec.eq_of_toNat_eq h)
  have hshort : 0 < 256 - t.toNat := Nat.sub_pos_of_lt t.isLt
  have hdvd := Nat.gcd_dvd_left t.toNat 256
  have hdvd256 := Nat.gcd_dvd_right t.toNat 256
  exact pulseRun_mixed (le_burst_mul hdvd256 (Nat.le_of_dvd hpos hdvd))
    (le_burst_mul hdvd256 (Nat.le_of_dvd hshort (Nat.dvd_sub hdvd256 hdvd)))

/-! ### The line step, column by column (R155) -/

/-- The bit offsets of a legal panel's columns are distinct (00_scope.md R13). -/
theorem offset_inj {p : Params} (hp : p.wf) {x x' : Nat} (hx : x < p.width) (hx' : x' < p.width) :
    p.offset x = p.offset x' ↔ x = x' := by
  obtain ⟨-, -, ⟨hlen, hnodup⟩, -⟩ := hp
  rw [← hlen] at hx hx'
  rw [Params.offset, Params.offset, List.getD_eq_getElem _ _ hx, List.getD_eq_getElem _ _ hx', hnodup.getElem_inj_iff]

theorem lineStepped_pdmLine {p : Params} {l : Nat} {tgt cur : Memory} (hc : cur.wf) :
    Claims.LineStepped p l tgt cur (pdmLine p l tgt cur).1 (pdmLine p l tgt cur).2 := by
  refine ⟨fun x hx => ?_, fun _ => pdmLine_readByte_other, fun j => ?_⟩
  · rw [pdmLine_readByte_line hc hx, pulseAcc_toNat]
  · simp only [pdmLine_mask, pulseBit_iff]

/-- Bit `OFF[x]` of the mask is the carry of column x, for no other column has that offset. -/
theorem pdmLine_getLsbD_offset {p : Params} {l x : Nat} {tgt cur : Memory} (hp : p.wf) (hx : x < p.width) :
    (pdmLine p l tgt cur).2.getLsbD (p.offset x).toNat =
      pulseBit (cur.readByte (cellAddr p l x)) (tgt.readByte (cellAddr p l x)) := by
  rw [Bool.eq_iff_iff, pdmLine_mask]
  constructor
  · rintro ⟨x', hx', ho, hbit⟩
    obtain rfl := (offset_inj hp hx' hx).mp (BitVec.eq_of_toNat_eq ho)
    exact hbit
  · exact fun hbit => ⟨x, hx, rfl, hbit⟩

/-- Settles O24: the accumulators, each column's bit, and the lanes. -/
theorem lineStepGivesEachColumnItsCarry : Obligations.LineStepGivesEachColumnItsCarry := by
  refine fun p l tgt cur hp _ hc => ⟨lineStepped_pdmLine hc, fun x hx => ?_, onLanes_pdmLine p l tgt cur⟩
  rw [pdmLine_getLsbD_offset hp hx, Bool.eq_iff_iff, pulseBit_iff, decide_eq_true_iff]

/-- The bits on a column's pin are those of its scalar run (R160). -/
theorem laneHighs_eq_pulseRun {p : Params} {l x : Nat} {tgt cur : Memory} (hp : p.wf) (hc : cur.wf) (hx : x < p.width)
    (n : Nat) : Claims.laneHighs p l tgt x n cur =
      (pulseRun (tgt.readByte (cellAddr p l x)) n (cur.readByte (cellAddr p l x))).1 := by
  induction n generalizing cur with
  | zero => rfl
  | succ n ih =>
    rw [Claims.laneHighs, ih (pdmLine_wf hc), pdmLine_getLsbD_offset hp hx, pdmLine_readByte_line hc hx, pulseRun]

/-- Settles O26: the count of the scalar run. -/
theorem laneShowsTheExactDutyCount : Obligations.LaneShowsTheExactDutyCount := by
  intro p l x n tgt cur hp _ hc hx
  simp only [laneHighs_eq_pulseRun hp hc hx, pulseRun_period, pulseRun_count, and_self]

/-! ### The batched line step (R154, R155) -/

theorem lane_packColumns (p : Params) (l j : Nat) (m : Memory) {k : Nat} (hk : k < 4) :
    lane (packColumns p l j m) k = m.readByte (cellAddr p l (4 * j + k)) :=
  lane_packLanes (fun k => m.readByte (cellAddr p l (4 * j + k))) hk

theorem cellAddr_left_cancel {p : Params} {l x x' : Nat} : cellAddr p l x = cellAddr p l x' ↔ x = x' :=
  Nat.add_left_cancel_iff

/-- A group is its four columns in turn: none of them reads a cell that an earlier one wrote. -/
theorem pdmGroup_eq_columns (p : Params) (l : Nat) (tgt : Memory) (acc : Memory × Word) (j : Nat) :
    pdmGroup p l tgt acc j = [4 * j, 4 * j + 1, 4 * j + 2, 4 * j + 3].foldl (pdmColumn p l tgt) acc := by
  simp only [pdmGroup, writeColumns, pulse4Mask, lane_pulse4Acc, lane_packColumns, Nat.reduceLT, Nat.add_zero,
    List.foldl_cons, List.foldl_nil]
  simp [pdmColumn, Memory.readByte_writeByte_other, cellAddr_left_cancel, BitVec.or_assoc]

/-- The groups up to j are the columns up to 4j. -/
theorem foldl_pdmGroup (p : Params) (l : Nat) (tgt cur : Memory) (j : Nat) :
    (List.range j).foldl (pdmGroup p l tgt) (cur, 0) = pdmColumns p l tgt cur (4 * j) := by
  induction j with
  | zero => rfl
  | succ j ih =>
    rw [List.range_succ, List.foldl_append, ih, List.foldl_cons, List.foldl_nil, pdmGroup_eq_columns, Nat.mul_succ]
    simp only [pdmColumns_succ, List.foldl_cons, List.foldl_nil]

/-- Settles O25: the groups of the whole line are its columns. -/
theorem batchedLineStepEqualsTheScalarOne : Obligations.BatchedLineStepEqualsTheScalarOne := by
  intro p l tgt cur hwidth
  rw [pdmLine_eq, ← Nat.mul_div_cancel' (Nat.dvd_of_mod_eq_zero hwidth)]
  exact foldl_pdmGroup p l tgt cur (p.width / 4)

end Sys2Proof.Machine
end

section
/-! The rules of the framebuffer's commands (43_framebuffer.md). On the panel the four setters are one operation
(`exec_setter`), so what a pixel write leaves in every cell is said once (`pixelWritten_setAdjusted`) and serves them all;
off the panel the setters part (R181, R185). Then FLIP, and PEEK of each array. -/

namespace Sys2Proof.Machine

/-! ### The setters on the panel (R173 to R178, R182) -/

theorem readByte_writePixel_other {p : Params} {x y : Coord} {a : Nat} (c : Color) (m : Memory)
    (ha : ∀ k, k < 3 → a ≠ pixelCell p x y k) : (writePixel p x y c m).readByte a = m.readByte a := by
  unfold writePixel
  rw [Memory.readByte_writeByte_other _ _ (ha 2 (by decide)), Memory.readByte_writeByte_other _ _ (ha 1 (by decide)),
    Memory.readByte_writeByte_other _ _ (ha 0 (by decide))]

/-- A pixel written with three zeros reads 0 in each of its cells. -/
theorem readByte_writePixel_zeros {p : Params} {x y : Coord} {k : Nat} (h : inRange p x y = true) {m : Memory}
    (hm : m.wf) (hk : k < 3) : (writePixel p x y ⟨0, 0, 0⟩ m).readByte (pixelCell p x y k) = 0 := by
  have hread := readPixel_writePixel h ⟨0, 0, 0⟩ hm
  match k, hk with
  | 0, _ => exact congrArg Color.r hread
  | 1, _ => exact congrArg Color.g hread
  | 2, _ => exact congrArg Color.b hread

/-- `set_adjusted` and the return write the pixel in the sense of the statements (R173). -/
theorem pixelWritten_setAdjusted {s : State} {x y : Coord} (h : inRange s.cfg x y = true) (c : Color)
    (hback : s.back.wf) (hcur : s.cur.wf) : Claims.PixelWritten s (respond plainOk (setAdjusted x y c s)) x y c := by
  have hread := readPixel_writePixel h c hback
  exact ⟨rfl, congrArg Color.r hread, congrArg Color.g hread, congrArg Color.b hread,
    fun _ => readByte_writePixel_zeros h hcur,
    fun _ ha => ⟨readByte_writePixel_other c s.back ha, readByte_writePixel_other ⟨0, 0, 0⟩ s.cur ha⟩⟩

/-- Settles O28: both are the pixel write, SET of the adjusted colour. -/
theorem uncheckedSettersWriteThePixel : Obligations.UncheckedSettersWriteThePixel := by
  intro s x y c hback hcur hx hy
  have h : inRange s.cfg x y = true := inRange_iff.mpr ⟨hx, hy⟩
  exact ⟨⟨_, exec_setter h (.inl ⟨.inl rfl, rfl⟩), pixelWritten_setAdjusted h _ hback hcur⟩,
    ⟨_, exec_setter h (.inr ⟨.inl rfl, rfl⟩), pixelWritten_setAdjusted h c hback hcur⟩⟩

/-- Settles O29: both are the pixel write, TRY_SET of the adjusted colour. -/
theorem checkedSettersWriteThePixel : Obligations.CheckedSettersWriteThePixel := by
  intro s x y c hback hcur hx hy
  have h : inRange s.cfg x y = true := inRange_iff.mpr ⟨hx, hy⟩
  exact ⟨⟨_, exec_setter h (.inl ⟨.inr rfl, rfl⟩), pixelWritten_setAdjusted h _ hback hcur⟩,
    ⟨_, exec_setter h (.inr ⟨.inr rfl, rfl⟩), pixelWritten_setAdjusted h c hback hcur⟩⟩

/-- Each setter stores the adjusted colour or the colour as it is. -/
theorem setter_stored {i : Instr} {x y : Coord} {c : Color} (p : Params)
    (hi : i = .set x y c ∨ i = .setAdj x y c ∨ i = .trySet x y c ∨ i = .trySetAdj x y c) :
    ∃ d, (i = .set x y c ∨ i = .trySet x y c) ∧ d = adjust p c ∨ (i = .setAdj x y c ∨ i = .trySetAdj x y c) ∧ d = c := by
  obtain hi | hi | hi | hi := hi
  · exact ⟨_, .inl ⟨.inl hi, rfl⟩⟩
  · exact ⟨_, .inr ⟨.inl hi, rfl⟩⟩
  · exact ⟨_, .inl ⟨.inr hi, rfl⟩⟩
  · exact ⟨_, .inr ⟨.inr hi, rfl⟩⟩

/-- Settles O31: whatever colour the setter stores in BACK, in CUR it writes the pixel with three zeros. -/
theorem peekOfCurAfterASetterReturnsZero : Obligations.PeekOfCurAfterASetterReturnsZero := by
  intro s i x y c hcur hx hy hi
  have h : inRange s.cfg x y = true := inRange_iff.mpr ⟨hx, hy⟩
  obtain ⟨d, hd⟩ := setter_stored s.cfg hi
  exact ⟨_, exec_setter h hd, exec_peek_written (d := ⟨0, 0, 0⟩) (m := s.cur) h hcur rfl⟩

/-! ### The setters off the panel (R181, R185) -/

/-- One ill-formed command makes the list ill-formed. -/
theorem programWf_eq_false_of_mem {p : Params} {is : List Instr} {i : Instr} (hmem : i ∈ is) (hi : i.wf p = false) :
    programWf p is = false :=
  List.all_eq_false.mpr ⟨i, hmem, by simp [hi]⟩

/-- Settles O13: the refusal and the well-formedness of SET and SET_ADJ are both decided by `inRange`. -/
theorem uncheckedSetterOffThePanelIsRefused : Obligations.UncheckedSetterOffThePanelIsRefused := by
  refine ⟨fun s x y c hoff => ?_, fun p is x y c hoff hmem => ?_⟩
  · have h : inRange s.cfg x y = false := inRange_eq_false_iff.mpr hoff
    exact ⟨setUnchecked_offPanel h _, setUnchecked_offPanel h c⟩
  · have h : inRange p x y = false := inRange_eq_false_iff.mpr hoff
    obtain hset | hadj := hmem
    · exact programWf_eq_false_of_mem hset h
    · exact programWf_eq_false_of_mem hadj h

/-- Settles O30: on the panel each pair is one pixel write; off it the checked setters only answer. -/
theorem checkedEqualsUncheckedOnThePanel : Obligations.CheckedEqualsUncheckedOnThePanel := by
  refine fun s x y c => ⟨fun hon => ?_, fun hoff => ?_⟩
  · have h : inRange s.cfg x y = true := inRange_iff.mpr hon
    exact ⟨(exec_setter h (.inl ⟨.inr rfl, rfl⟩)).trans (exec_setter h (.inl ⟨.inl rfl, rfl⟩)).symm,
      (exec_setter h (.inr ⟨.inr rfl, rfl⟩)).trans (exec_setter h (.inr ⟨.inl rfl, rfl⟩)).symm⟩
  · have h : inRange s.cfg x y = false := inRange_eq_false_iff.mpr hoff
    exact ⟨congrArg _ (setChecked_offPanel h _), congrArg _ (setChecked_offPanel h c)⟩

/-! ### FLIP (R171, R172, R180) -/

theorem exec_flip (s : State) : exec .flip s = .next (respond plainOk (flipBuffers s)) := rfl

/-- A flip changes nothing where TGT is already a copy of BACK. -/
theorem flipBuffers_eq_self {s : State} (h : s.tgt = s.back) : flipBuffers s = s :=
  congrArg (fun m => { s with tgt := m }) h.symm

/-- Settles O33: TGT becomes BACK itself, and no other array is written. -/
theorem flipCopiesBackIntoTgt : Obligations.FlipCopiesBackIntoTgt := fun s =>
  ⟨_, exec_flip s, rfl, fun _ => rfl, fun _ _ => rfl, fun _ => rfl, fun _ => rfl⟩

/-- Settles O34: after the first FLIP, TGT is a copy of BACK, so the second flip is none. -/
theorem flipTwiceIsFlipOnce : Obligations.FlipTwiceIsFlipOnce := by
  refine fun s => ⟨_, exec_flip s, ?_⟩
  rw [exec_flip, flipBuffers_eq_self (s := respond plainOk (flipBuffers s)) rfl]
  rfl

/-! ### PEEK (R179) -/

/-- Settles O35: the colour read is the pixel's three cells, and the decoder finds the reserved selector. -/
theorem peekReturnsThePixelOfTheSelectedArray : Obligations.PeekReturnsThePixelOfTheSelectedArray := by
  refine ⟨fun s x y hx hy => ?_, fun s x y sel hoff => ?_, fun h w1 t hop hsel => ?_⟩
  · have h : inRange s.cfg x y = true := inRange_iff.mpr ⟨hx, hy⟩
    exact ⟨execPeek_onPanel h .back, execPeek_onPanel h .tgt, execPeek_onPanel h .cur⟩
  · exact execPeek_offPanel (inRange_eq_false_iff.mpr hoff) sel
  · obtain ⟨why, hbad⟩ := decodePeek_bad_word (h := h) (.inr hsel)
    exact ⟨why, decode_illegal hop (Nat.le_add_left 2 t.length) hbad⟩

end Sys2Proof.Machine
end

section
/-! The rules of the screen driver's commands (44_screen_driver.md): the dwell gate, then what one DRIVE_MID and one round
of DRIVE_POST make of the whole state, an equation for each of its outcomes. The two actions are said once, as updates of
the state (`clockAction_eq`, and `beforePdm_…` for the data action up to its PDM step). -/

namespace Sys2Proof.Machine

/-! ### The dwell gate (R201) -/

/-- A gate passed at the true count `T` means that the cycles of the dwell are over since the stamp at `T0`. -/
theorem dwell_le_of_dwellOk {s : State} {T0 T : Nat} (hT : T0 ≤ T) (hstamp : BitVec.ofNat 32 T0 = s.phaseStart)
    (hopen : dwellOk (BitVec.ofNat 32 T) s = true) : dwell s.cfg s.phase ≤ T - T0 := by
  rw [dwellOk_iff, ← hstamp] at hopen
  exact hopen.trans (elapsed_le_true hT)

/-- Settles O36: `dwell` is the dwell of the statement, phase by phase. -/
theorem dwellGateNeverOpensEarly : Obligations.DwellGateNeverOpensEarly :=
  ⟨fun s now => dwellOk_iff now s, fun _ _ _ => dwell_le_of_dwellOk⟩

theorem dwellOk_eq_false {s : State} (h : ¬ Claims.DwellElapsed s) : dwellOk (sampleCyc s).cycNow s = false :=
  Bool.eq_false_iff.mpr (mt (dwellOk_iff_dwellElapsed s).mp h)

theorem dwellOk_eq_true {s : State} (h : Claims.DwellElapsed s) : dwellOk (sampleCyc s).cycNow s = true :=
  (dwellOk_iff_dwellElapsed s).mpr h

/-! ### The two actions, field by field (R203 to R205) -/

/-- The clock action, with LATCH as R203 writes it. -/
theorem clockAction_eq (now : Word) (s : State) :
    clockAction now s = { s with
      clk := true, latch := if s.idx = 0 then true else s.latch, phase := .data, phaseStart := now
      pins := s.pins ++ [⟨now, true, if s.idx = 0 then true else s.latch, s.data⟩] } := by
  have hlatch : (s.latch || (s.idx == 0)) = if s.idx = 0 then true else s.latch := by
    by_cases h : s.idx = 0 <;> simp [h]
  rw [← hlatch]
  rfl

/-- Without eligibility the data action only moves on to the next line before its PDM step (R204, R207). -/
theorem beforePdm_ineligible (s : State) :
    beforePdm false s = { s with clk := false, latch := false, idx := Claims.nextIdx s } := by
  simp [beforePdm, checksFrame, flips, atLastLine, Claims.nextIdx]

/-- With no flip to make, the frame check of a wrap leaves only its sample of `rtc` (R204, R205). -/
theorem beforePdm_without_flip {s : State} (h : ¬ Claims.AtWrap s ∨ Claims.maskedSample s = s.lastRtc) :
    beforePdm true s = { s with
      clk := false, latch := false, idx := Claims.nextIdx s
      rtc := if s.idx + 1 = s.cfg.shiftCount then Claims.rtcAfter s else s.rtc } := by
  have hmasked : nextMasked s = Claims.maskedSample s := rfl
  by_cases hwrap : s.idx + 1 = s.cfg.shiftCount
  · have hsame : Claims.maskedSample s = s.lastRtc := h.resolve_left (not_not_intro hwrap)
    simp [beforePdm, checksFrame, flips, atLastLine, Claims.nextIdx, hwrap, hmasked, hsame, Claims.rtcAfter]
  · simp [beforePdm, checksFrame, flips, atLastLine, Claims.nextIdx, hwrap]

/-- At a frame boundary LAST_RTC takes the masked sample and TGT becomes BACK before the PDM step (R204, R205). -/
theorem beforePdm_with_flip {s : State} (hwrap : Claims.AtWrap s) (hnew : Claims.maskedSample s ≠ s.lastRtc) :
    beforePdm true s = { s with
      clk := false, latch := false, idx := 0, rtc := Claims.rtcAfter s, lastRtc := Claims.maskedSample s
      tgt := s.back } := by
  have hmasked : nextMasked s = Claims.maskedSample s := rfl
  have hlast : s.idx + 1 = s.cfg.shiftCount := hwrap
  simp [beforePdm, checksFrame, flips, atLastLine, hlast, hmasked, hnew, Claims.rtcAfter]

/-! ### DRIVE_MID (R207) -/

theorem exec_driveMid_early {s : State} (h : ¬ Claims.DwellElapsed s) :
    exec .driveMid s = .next (respond (okResponse false 0 0) (sampleCyc s)) := execDriveMid_early (dwellOk_eq_false h)

theorem exec_driveMid_advances {s : State} (h : Claims.DwellElapsed s) :
    exec .driveMid s =
      .next (respond (okResponse false 1 0) (advance (Claims.cycSample s) false (sampleCyc s)).1) :=
  execDriveMid_advances (dwellOk_eq_true h)

/-- Settles O37. -/
theorem driveMidTooEarlyChangesNothing : Obligations.DriveMidTooEarlyChangesNothing := fun _ => exec_driveMid_early

/-- Settles O38: the transition is the clock action. -/
theorem driveMidPerformsTheClockAction : Obligations.DriveMidPerformsTheClockAction := by
  intro s hph h
  rw [exec_driveMid_advances h, advance_clock (s := sampleCyc s) hph, clockAction_eq]
  rfl

/-- Settles O39: the transition is the data action, whose PDM step is that of the line moved on to. -/
theorem driveMidPerformsTheDataAction : Obligations.DriveMidPerformsTheDataAction := by
  intro s hcur hph h
  rw [exec_driveMid_advances h, advance_data (s := sampleCyc s) hph, beforePdm_ineligible]
  exact ⟨_, rfl, rfl, lineStepped_pdmLine hcur⟩

/-! ### One round of DRIVE_POST (R208) -/

section
variable {s : State}

theorem pollDrivePost_early (h : ¬ Claims.DwellElapsed s) :
    pollDrivePost s = { s with cyc := Claims.cycAfter s, busy := some .drivePost } :=
  pollDrivePost_waits (dwellOk_eq_false h)

/-- A round that transits without a flip keeps the command in progress. -/
theorem pollDrivePost_advances (h : Claims.DwellElapsed s)
    (hno : ¬ (s.phase = .data ∧ Claims.AtWrap s ∧ Claims.maskedSample s ≠ s.lastRtc)) :
    pollDrivePost s =
      { (advance (Claims.cycSample s) true (sampleCyc s)).1 with busy := some .drivePost } :=
  pollDrivePost_goes_on (dwellOk_eq_true h)
    (Bool.eq_false_iff.mpr (mt (advance_eligible_flipped _ (sampleCyc s)).mp hno))

theorem pollDrivePost_clock (hph : s.phase = .clock) (h : Claims.DwellElapsed s) :
    pollDrivePost s = { clockAction (Claims.cycSample s) (sampleCyc s) with busy := some .drivePost } := by
  rw [pollDrivePost_advances h (by simp [hph]), advance_clock (s := sampleCyc s) hph]

theorem pollDrivePost_data (hph : s.phase = .data) (h : Claims.DwellElapsed s)
    (hno : ¬ Claims.AtWrap s ∨ Claims.maskedSample s = s.lastRtc) :
    pollDrivePost s = { enterPhase .clock (Claims.cycSample s) (pdmStep { sampleCyc s with
      clk := false, latch := false, idx := Claims.nextIdx s
      rtc := if s.idx + 1 = s.cfg.shiftCount then Claims.rtcAfter s else s.rtc }) with busy := some .drivePost } := by
  rw [pollDrivePost_advances h (by tauto), advance_data (s := sampleCyc s) hph,
    beforePdm_without_flip (s := sampleCyc s) hno]
  rfl

/-- The round at a frame boundary flips and returns. -/
theorem pollDrivePost_flips (hph : s.phase = .data) (h : Claims.DwellElapsed s) (hwrap : Claims.AtWrap s)
    (hnew : Claims.maskedSample s ≠ s.lastRtc) :
    pollDrivePost s = respond (okResponse true 0 0)
      { enterPhase .clock (Claims.cycSample s) (pdmStep { sampleCyc s with
        clk := false, latch := false, idx := 0, rtc := Claims.rtcAfter s, lastRtc := Claims.maskedSample s
        tgt := s.back }) with busy := none } := by
  rw [pollDrivePost_returns (dwellOk_eq_true h)
    ((advance_eligible_flipped _ (sampleCyc s)).mpr ⟨hph, hwrap, hnew⟩), advance_data (s := sampleCyc s) hph,
    beforePdm_with_flip (s := sampleCyc s) hwrap hnew]
  rfl

end

/-- Settles O40. -/
theorem drivePostWaitsForTheDwell : Obligations.DrivePostWaitsForTheDwell := fun _ h =>
  congrArg Host.Outcome.next (pollDrivePost_early h)

/-- Settles O41, a lemma on the round for each phase. -/
theorem drivePostGoesOnWithoutAFlip : Obligations.DrivePostGoesOnWithoutAFlip := by
  refine ⟨fun s hph h => congrArg Host.Outcome.next ?_, fun s hcur hph h hno => ?_⟩
  · rw [pollDrivePost_clock hph h, clockAction_eq]
    rfl
  · exact ⟨_, congrArg Host.Outcome.next (pollDrivePost_data hph h hno), rfl, lineStepped_pdmLine hcur⟩

/-- Settles O42: the PDM step of the round reads the TGT that BACK was copied to. -/
theorem drivePostFlipsAndReturnsAtAFrameBoundary : Obligations.DrivePostFlipsAndReturnsAtAFrameBoundary :=
  fun _ hcur hph h hwrap hnew =>
    ⟨_, congrArg Host.Outcome.next (pollDrivePost_flips hph h hwrap hnew), rfl, lineStepped_pdmLine hcur⟩

/-! ### SET_MASK and rate_mask (R209, R210) -/

/-- Settles O46. -/
theorem setMaskWritesOnlyTheMask : Obligations.SetMaskWritesOnlyTheMask := fun _ _ => rfl

/-- A mask with its low c bits clear keeps the multiple of 2^c below, bit by bit: shifted right and left again by c. -/
theorem toNat_and_not_low_bits (k : Word) (c : Nat) :
    (k &&& ~~~ BitVec.ofNat 32 (2 ^ c - 1)).toNat = k.toNat / 2 ^ c * 2 ^ c := by
  refine Nat.eq_of_testBit_eq fun i => ?_
  rw [← Nat.shiftRight_eq_div_pow, ← Nat.shiftLeft_eq, Nat.testBit_shiftLeft, Nat.testBit_shiftRight,
    BitVec.testBit_toNat, BitVec.testBit_toNat]
  have hlt : k.getLsbD i = true → i < 32 := BitVec.lt_of_getLsbD
  obtain hi | hi := Nat.lt_or_ge i c
  · simp [BitVec.getLsbD_ofNat, Nat.testBit_two_pow_sub_one, hi]
  · simpa [BitVec.getLsbD_ofNat, Nat.testBit_two_pow_sub_one, hi] using hlt

/-- Settles O47: the period of two powers of two is one, and its mask has the low bits clear. -/
theorem rateMaskKeepsThePeriodNumber : Obligations.RateMaskKeepsThePeriodNumber := by
  refine ⟨fun a b k hb _ => ?_, by decide⟩
  rw [rateMask, Nat.pow_div hb (by decide)]
  exact toNat_and_not_low_bits k (a - b)

end Sys2Proof.Machine
end

section
/-! The screen driver's flips (44_screen_driver.md). A round of DRIVE_POST flips at a frame boundary (`AtBoundary`) and
elsewhere leaves the frame of `WentOn`; with what a step can do (`step_round`) this gives when a flip is signalled, the
DRIVE_POST that never returns, and, by induction over the listed growths of `cyc`, the one that returns at its first
wrap. -/

namespace Sys2Proof.Machine

/-! ### Rounds that do not flip (R205, R208) -/

/-- The next round of DRIVE_POST is at a frame boundary: it flips and returns (R204, R205, R208). -/
def AtBoundary (s : State) : Prop :=
  Claims.DwellElapsed s ∧ s.phase = .data ∧ Claims.AtWrap s ∧ Claims.maskedSample s ≠ s.lastRtc

/-- What a round of DRIVE_POST that does not flip leaves alone, and that the command is then in progress. -/
structure WentOn (s t : State) : Prop where
  cfg : t.cfg = s.cfg
  rtcMask : t.rtcMask = s.rtcMask
  lastRtc : t.lastRtc = s.lastRtc
  rtc : t.rtc = s.rtc ∨ t.rtc = Claims.rtcAfter s ∧ Claims.maskedSample s = s.lastRtc
  back : t.back = s.back
  tgt : t.tgt = s.tgt
  port : t.port = s.port
  resetIn : t.resetIn = s.resetIn
  responses : t.responses = s.responses
  busy : t.busy = some .drivePost

theorem pollDrivePost_wentOn {s : State} (hno : ¬ AtBoundary s) : WentOn s (pollDrivePost s) := by
  by_cases h : Claims.DwellElapsed s
  case neg =>
    rw [pollDrivePost_early h]
    exact ⟨rfl, rfl, rfl, .inl rfl, rfl, rfl, rfl, rfl, rfl, rfl⟩
  case pos =>
    cases hph : s.phase
    case clock =>
      rw [pollDrivePost_clock hph h]
      exact ⟨rfl, rfl, rfl, .inl rfl, rfl, rfl, rfl, rfl, rfl, rfl⟩
    case data =>
      have hsame : Claims.AtWrap s → Claims.maskedSample s = s.lastRtc := fun hwrap =>
        not_not.mp fun hnew => hno ⟨h, hph, hwrap, hnew⟩
      rw [pollDrivePost_data hph h (not_or_of_imp hsame)]
      refine ⟨rfl, rfl, rfl, ?_, rfl, rfl, rfl, rfl, rfl, rfl⟩
      by_cases hwrap : Claims.AtWrap s
      · exact .inr ⟨if_pos hwrap, hsame hwrap⟩
      · exact .inl (if_neg hwrap)

/-! ### What a step can do, and the flips it signals (R205, R212) -/

/-- A response returned from `s` to `t` says flipped = 0. -/
def Unflipped (s t : State) : Prop := ∀ r, t.responses = s.responses ++ [r] → r.flipped = false

/-- No flip is signalled: a response says flipped = 0, LAST_RTC stays, and a sample of `rtc` is masked to it. -/
structure Unsignalled (s t : State) : Prop where
  unflipped : Unflipped s t
  lastRtc : t.lastRtc = s.lastRtc
  rtc : t.rtc = s.rtc ∨ t.rtc = Claims.rtcAfter s ∧ Claims.maskedSample s = s.lastRtc

theorem unflipped_of_unanswered {s t : State} (h : t.responses = s.responses) : Unflipped s t := fun r hr => by
  simp [h] at hr

theorem unflipped_respond {r : Response} (hr : r.flipped = false) {s u : State} (h : u.responses = s.responses) :
    Unflipped s (respond r u) := fun r' hr' => by
  obtain rfl : r = r' := by simpa [h] using hr'
  exact hr

theorem setUnchecked_unflipped {x y : Coord} {c : Color} {s t : State} (h : setUnchecked x y c s = .next t) :
    Unflipped s t := by
  unfold setUnchecked at h
  split at h <;> cases h
  exact unflipped_respond rfl rfl

theorem setChecked_unflipped (x y : Coord) (c : Color) (s : State) : Unflipped s (setChecked x y c s) :=
  unflipped_respond rfl (by split <;> rfl)

theorem pollDelay_unflipped (n : BitVec 24) (start : Word) {s u : State} (h : u.responses = s.responses) :
    Unflipped s (pollDelay n start u) := by
  cases hd : delayOver n start (sampleCyc u).cycNow
  case false =>
    rw [pollDelay_waits hd]
    exact unflipped_of_unanswered h
  case true =>
    rw [pollDelay_returns hd]
    exact unflipped_respond rfl h

theorem execPeek_unflipped {x y : Coord} {sel : ArraySel} {s t : State} (h : execPeek x y sel s = .next t) :
    Unflipped s t := by
  unfold execPeek at h
  split at h <;> cases h <;> exact unflipped_respond rfl rfl

/-- No command but DRIVE_POST answers flipped = 1 (30_encoding.md R112), command by command. -/
theorem exec_unflipped {i : Instr} (hi : i ≠ .drivePost) {s t : State} (h : exec i s = .next t) : Unflipped s t := by
  cases i with
  | driveMid =>
    by_cases hd : Claims.DwellElapsed s
    · cases (exec_driveMid_advances hd).symm.trans h
      exact unflipped_respond rfl (advance_responses _ _ _)
    · cases (exec_driveMid_early hd).symm.trans h
      exact unflipped_respond rfl rfl
  | drivePost => exact absurd rfl hi
  | set x y c => exact setUnchecked_unflipped h
  | setAdj x y c => exact setUnchecked_unflipped h
  | trySet x y c => cases h; exact setChecked_unflipped x y _ s
  | trySetAdj x y c => cases h; exact setChecked_unflipped x y c s
  | delay n => cases h; exact pollDelay_unflipped n _ rfl
  | peek x y sel => exact execPeek_unflipped h
  | flip | pulse | pulse4 | setMask | adjust => cases h; exact unflipped_respond rfl rfl

/-- No command but DRIVE_POST signals a flip: none samples `rtc` or writes LAST_RTC (10_state.md R49). -/
theorem exec_unsignalled {i : Instr} (hi : i ≠ .drivePost) {s t : State} (h : exec i s = .next t) : Unsignalled s t := by
  obtain ⟨-, -, -, -, hrtc, -⟩ := onlyTheListedCommandsWrite i s t h
  obtain ⟨hlast, hrtc⟩ := not_or.mp (mt hrtc hi)
  exact ⟨exec_unflipped hi h, not_not.mp hlast, .inl (not_not.mp hrtc)⟩

/-- A round of DRIVE_POST signals no flip but at a frame boundary. -/
theorem WentOn.unsignalled {s t : State} (h : WentOn s t) : Unsignalled s t :=
  ⟨unflipped_of_unanswered h.responses, h.lastRtc, h.rtc⟩

/-- What a step without RESET can do once its words of the port are consumed. -/
inductive Round (s t : State) : Prop
  | drivePost (h : t = pollDrivePost s)
  | command (i : Instr) (hi : i ≠ .drivePost) (h : exec i s = .next t)
  | delay (n : BitVec 24) (start : Word) (h : t = pollDelay n start s)
  | illegal (h : t = answerIllegal s)
  | await (h : t = awaitCommand s)

theorem step_round {s t : State} (hr : s.resetIn = false) (h : step s = .next t) : ∃ n, Round (consume n s) t := by
  cases hb : s.busy with
  | some b =>
    cases (step_busy hr hb).symm.trans h
    cases b with
    | drivePost => exact ⟨0, .drivePost rfl⟩
    | delay n start => exact ⟨0, .delay n start rfl⟩
  | none =>
    rw [step_idle hr hb] at h
    unfold nextCommand at h
    split at h
    case h_1 i n _ =>
      by_cases hi : i = .drivePost
      · subst hi
        cases h
        exact ⟨n, .drivePost rfl⟩
      · exact ⟨n, .command i hi h⟩
    case h_2 n _ =>
      cases h
      exact ⟨n, .illegal rfl⟩
    case h_3 => cases h
    case h_4 =>
      cases h
      exact ⟨0, .await rfl⟩

theorem Round.signal {s t : State} (w : Round s t) : Unsignalled s t ∨ AtBoundary s ∧ t = pollDrivePost s := by
  cases w with
  | drivePost h =>
    by_cases hb : AtBoundary s
    · exact .inr ⟨hb, h⟩
    · exact .inl (h ▸ (pollDrivePost_wentOn hb).unsignalled)
  | command i hi h => exact .inl (exec_unsignalled hi h)
  | delay n start h =>
    obtain ⟨b, rs, hrec⟩ := pollDelay_eq_recorded n start s
    refine .inl ⟨h ▸ pollDelay_unflipped n start rfl, ?_, .inl ?_⟩ <;> rw [h, hrec] <;> rfl
  | illegal h => exact .inl (h ▸ ⟨unflipped_respond rfl rfl, rfl, .inl rfl⟩)
  | await h => exact .inl (h ▸ ⟨unflipped_of_unanswered rfl, rfl, .inl rfl⟩)

/-- Settles O43: a step signals no flip, or it is the round of DRIVE_POST at a frame boundary. -/
theorem flipIsSignalledExactlyOnAChangeOfTheMaskedSample :
    Obligations.FlipIsSignalledExactlyOnAChangeOfTheMaskedSample := by
  intro s t hr h
  obtain ⟨n, w⟩ := step_round hr h
  obtain ⟨hunflipped, hlast, hrtc⟩ | ⟨⟨helapsed, hph, hwrap, hnew⟩, rfl⟩ := w.signal
  · have hstays : ¬ t.lastRtc ≠ s.lastRtc := not_not_intro hlast
    have hnone : ¬ ∃ r, t.responses = s.responses ++ [r] ∧ r.flipped = true := fun ⟨r, hresp, hflip⟩ =>
      Bool.noConfusion ((hunflipped r hresp).symm.trans hflip)
    refine ⟨iff_of_false hnone hstays, fun hne => absurd hne hstays, fun hne => ?_⟩
    obtain ⟨hsample, hsame⟩ := hrtc.resolve_left hne
    rw [hlast, hsample]
    exact hsame.symm
  · rw [pollDrivePost_flips hph helapsed hwrap hnew]
    exact ⟨iff_of_true ⟨_, rfl, rfl⟩ hnew, fun _ => ⟨rfl, rfl, rfl⟩, fun _ => rfl⟩

/-! ### A DRIVE_POST that never returns (R216) -/

/-- A masked sample of 0 is what LAST_RTC holds, so no round is at a frame boundary. -/
theorem not_atBoundary_of_zero_mask {s : State} (hmask : s.rtcMask = 0#32) (hlast : s.lastRtc = 0#32) :
    ¬ AtBoundary s := by
  rintro ⟨-, -, -, hnew⟩
  exact hnew (by rw [Claims.maskedSample, hmask, hlast, BitVec.and_zero])

/-- Settles O45: every step is a round that does not flip, and leaves RTC_MASK and LAST_RTC at 0. -/
theorem drivePostWithAZeroMaskNeverReturns : Obligations.DrivePostWithAZeroMaskNeverReturns := by
  intro k
  induction k with
  | zero => exact fun s _ hb _ _ => ⟨s, rfl, hb, rfl, rfl⟩
  | succ k ih =>
    intro s hr hb hmask hlast
    have w := pollDrivePost_wentOn (not_atBoundary_of_zero_mask hmask hlast)
    obtain ⟨t, hrun, hbusy, hresp, htgt⟩ := ih (pollDrivePost s) (w.resetIn.trans hr) w.busy (w.rtcMask.trans hmask)
      (w.lastRtc.trans hlast)
    exact ⟨t, (run_next (step_busy hr hb)).trans hrun, hbusy, hresp.trans w.responses, htgt.trans w.tgt⟩

/-! ### A DRIVE_POST that flips at its first wrap (R208) -/

/-- The transitions from a scan position to the end of its wrap (R208). -/
def transitionsLeft (s : State) : Nat := 2 * (s.cfg.shiftCount - s.idx) - (if s.phase = .data then 1 else 0)

theorem transitionsLeft_clock {s : State} (h : s.phase = .clock) :
    transitionsLeft s = 2 * (s.cfg.shiftCount - s.idx) := by simp [transitionsLeft, h]

theorem transitionsLeft_data {s : State} (h : s.phase = .data) :
    transitionsLeft s = 2 * (s.cfg.shiftCount - s.idx) - 1 := by simp [transitionsLeft, h]

/-- A scan under way whose remaining transitions pass the gate at the listed growths `ds` of `cyc`, one each, and whose
wrap is in a new period of the real-time counter. -/
structure Scanning (ds more : List Nat) (s : State) : Prop where
  resetIn : s.resetIn = false
  idx_lt : s.idx < s.cfg.shiftCount
  stamp : BitVec.ofNat 32 s.cyc.count = s.phaseStart
  left : ds.length = transitionsLeft s
  ahead : s.cyc.ahead = ds ++ more
  listed : ∀ d ∈ ds, s.cfg.dwellClock ≤ d ∧ s.cfg.dwellData ≤ d ∧ d < 2 ^ 32
  fresh : Claims.maskedSample s ≠ s.lastRtc

/-- DRIVE_POST went from `s` to its return in `t` by n transitions, with a flip at the wrap (R208). -/
structure Returned (s : State) (n : Nat) (t : State) : Prop where
  phase : t.phase = .clock
  idx : t.idx = 0
  clk : t.clk = false
  latch : t.latch = false
  tgt : t.tgt = s.back
  back : t.back = s.back
  lastRtc : t.lastRtc = Claims.maskedSample s
  busy : t.busy = none
  port : t.port = s.port
  responses : t.responses = s.responses ++ [⟨.ok, true, 0, 0⟩]
  pins : t.pins.length = s.pins.length + n
  line : ∃ cur, t.cur = (pdmLine s.cfg 0 t.tgt cur).1 ∧ t.data = (pdmLine s.cfg 0 t.tgt cur).2

section
variable {s : State} {d : Nat} {ds more : List Nat}

theorem Scanning.cycAfter (h : Scanning (d :: ds) more s) :
    Claims.cycAfter s = { s.cyc with count := s.cyc.count + d, ahead := ds ++ more } :=
  Counter.tick_listed _ _ h.ahead

/-- The listed growth meets the dwell of the phase at the first sample. -/
theorem Scanning.elapsed (h : Scanning (d :: ds) more s) : Claims.DwellElapsed s := by
  obtain ⟨hclock, hdata, hlt⟩ := h.listed d List.mem_cons_self
  have hshown : (Claims.cycSample s - s.phaseStart).toNat = d := by
    rw [Claims.cycSample, h.cycAfter, ← h.stamp]
    simp only [Counter.shown, BitVec.toNat_sub, BitVec.toNat_ofNat]
    omega
  rw [Claims.DwellElapsed, hshown]
  cases s.phase
  · exact hclock
  · exact hdata

/-- A scan under way has a transition left. -/
theorem Scanning.ne_nil (h : Scanning ds more s) : ds ≠ [] := by
  rintro rfl
  have hleft : 0 = transitionsLeft s := h.left
  have hidx := h.idx_lt
  cases hph : s.phase
  case clock =>
    rw [transitionsLeft_clock hph] at hleft
    omega
  case data =>
    rw [transitionsLeft_data hph] at hleft
    omega

/-- The last transition is the data action of the wrap, and it flips. -/
theorem Scanning.returns (h : Scanning [d] more s) : Returned s 1 (pollDrivePost s) := by
  have hleft : 1 = transitionsLeft s := h.left
  have hidx := h.idx_lt
  have hph : s.phase = .data := by
    cases hph : s.phase
    case clock =>
      rw [transitionsLeft_clock hph] at hleft
      omega
    case data => rfl
  have hwrap : Claims.AtWrap s := by
    rw [transitionsLeft_data hph] at hleft
    unfold Claims.AtWrap
    omega
  rw [pollDrivePost_flips hph h.elapsed hwrap h.fresh]
  exact ⟨rfl, rfl, rfl, rfl, rfl, rfl, rfl, rfl, rfl, rfl, List.length_append, s.cur, rfl, rfl⟩

/-- Every transition before the last one goes on with the scan: after a clock action the same line's data action is due,
after a data action the next line's clock action. -/
theorem Scanning.goes_on (h : Scanning (d :: ds) more s) (hds : ds ≠ []) :
    WentOn s (pollDrivePost s) ∧ Scanning ds more (pollDrivePost s) ∧ (pollDrivePost s).rtc = s.rtc ∧
      (pollDrivePost s).pins.length = s.pins.length + 1 := by
  have hleft : ds.length + 1 = transitionsLeft s := h.left
  have hpos := List.length_pos_iff.mpr hds
  have hidx := h.idx_lt
  have hahead : (Claims.cycAfter s).ahead = ds ++ more := congrArg Counter.ahead h.cycAfter
  have hlisted := (List.forall_mem_cons.mp h.listed).2
  cases hph : s.phase
  case clock =>
    have w := pollDrivePost_wentOn (s := s) fun ⟨_, hdata, _⟩ => by simp [hph] at hdata
    refine ⟨w, ?_⟩
    rw [pollDrivePost_clock hph h.elapsed]
    refine ⟨⟨h.resetIn, hidx, rfl, ?_, hahead, hlisted, h.fresh⟩, rfl, List.length_append⟩
    rw [transitionsLeft_clock hph] at hleft
    rw [transitionsLeft_data rfl]
    change ds.length = 2 * (s.cfg.shiftCount - s.idx) - 1
    omega
  case data =>
    rw [transitionsLeft_data hph] at hleft
    have hwrap : ¬ s.idx + 1 = s.cfg.shiftCount := by omega
    have hnext : Claims.nextIdx s = s.idx + 1 := if_neg hwrap
    have w := pollDrivePost_wentOn (s := s) fun ⟨_, _, hw, _⟩ => hwrap hw
    refine ⟨w, ?_⟩
    rw [pollDrivePost_data hph h.elapsed (.inl hwrap), hnext, if_neg hwrap]
    refine ⟨⟨h.resetIn, ?_, rfl, ?_, hahead, hlisted, h.fresh⟩, rfl, List.length_append⟩
    · change s.idx + 1 < s.cfg.shiftCount
      omega
    · rw [transitionsLeft_clock rfl]
      change ds.length = 2 * (s.cfg.shiftCount - (s.idx + 1))
      omega

end

/-- A round that went on before the transitions to the return. -/
theorem Returned.after {s u t : State} {n : Nat} (h : Returned u n t) (w : WentOn s u) (hrtc : u.rtc = s.rtc)
    (hpins : u.pins.length = s.pins.length + 1) : Returned s (n + 1) t where
  phase := h.phase
  idx := h.idx
  clk := h.clk
  latch := h.latch
  tgt := h.tgt.trans w.back
  back := h.back.trans w.back
  lastRtc := by rw [h.lastRtc, Claims.maskedSample, Claims.rtcAfter, hrtc, w.rtcMask]; rfl
  busy := h.busy
  port := h.port.trans w.port
  responses := by rw [h.responses, w.responses]
  pins := by rw [h.pins, hpins, Nat.add_assoc, Nat.add_comm 1]
  line := w.cfg ▸ h.line

/-- One round after another, along the growths listed. -/
theorem Scanning.run_returns {ds more : List Nat} {s u : State} (h : Scanning ds more u)
    (hstep : step s = .next (pollDrivePost u)) :
    ∃ t, core.run ds.length s = .next t ∧ Returned u ds.length t := by
  induction ds generalizing s u with
  | nil => exact absurd rfl h.ne_nil
  | cons d ds ih =>
    by_cases hlast : ds = []
    · subst hlast
      exact ⟨_, (run_next hstep).trans (run_zero _), h.returns⟩
    · obtain ⟨w, hnext, hrtc, hpins⟩ := h.goes_on hlast
      obtain ⟨t, hrun, ht⟩ := ih hnext (step_busy hnext.resetIn w.busy)
      exact ⟨t, (run_next hstep).trans hrun, ht.after w hrtc hpins⟩

/-- Settles O44: the first step is the first round, whose words are consumed, and the scan returns along the growths. -/
theorem drivePostReturnsAfterTheCountedTransitions : Obligations.DrivePostReturnsAfterTheCountedTransitions := by
  intro s rest ds more N hr hb hport hidx hstamp hN hahead hlen hlisted hnew
  have hdecode : decode s.port = .command .drivePost 1 := hport ▸ decodeOfEncodeIsTheCommand .drivePost rest
  have hscan : Scanning ds more (consume 1 s) := ⟨hr, hidx, hstamp, hlen.trans hN, hahead, hlisted, hnew⟩
  obtain ⟨t, hrun, ht⟩ := hscan.run_returns (step_command hr hb hdecode)
  rw [← hlen]
  have hdrop : (consume 1 s).port = rest := congrArg (List.drop 1) hport
  exact ⟨t, hrun, ht.phase, ht.idx, ht.clk, ht.latch, ht.tgt, ht.back, ht.lastRtc, ht.busy, ht.port.trans hdrop,
    ht.responses, ht.pins, ht.line⟩

end Sys2Proof.Machine
end

section
/-! The minimum widths of the protocol (44_screen_driver.md R217). Every round holds the pins or makes one transition through
the dwell gate (`Round.pace`), so a run keeps `Paced`: its transitions took the sum of their dwells in true cycles. -/

namespace Sys2Proof.Machine

/-! ### One round: no transition, or one through the gate (R201, R202) -/

/-- No transition: the stamp and the trace stay, and true cycles may have passed. -/
structure Held (s t : State) : Prop where
  cfg : t.cfg = s.cfg
  resetIn : t.resetIn = s.resetIn
  phase : t.phase = s.phase
  phaseStart : t.phaseStart = s.phaseStart
  pins : t.pins = s.pins
  cyc : s.cyc.count ≤ t.cyc.count

/-- The phase after a transition (R200). -/
def Phase.other : Phase → Phase
  | .clock => .data
  | .data => .clock

/-- One transition, through the dwell gate (R201, R202). -/
structure Transited (s t : State) : Prop where
  gate : Claims.DwellElapsed s
  cfg : t.cfg = s.cfg
  resetIn : t.resetIn = s.resetIn
  phase : t.phase = s.phase.other
  phaseStart : t.phaseStart = Claims.cycSample s
  pins : t.pins.length = s.pins.length + 1
  cyc : t.cyc = Claims.cycAfter s

/-- A transition that passed the gate at a sample, whatever the round then records. -/
theorem transited_advance {s : State} (h : Claims.DwellElapsed s) (e : Bool) (b : Option Busy) (rs : List Response) :
    Transited s (recorded b rs (advance (Claims.cycSample s) e (sampleCyc s)).1) := by
  cases hph : s.phase
  case clock =>
    rw [advance_clock (s := sampleCyc s) hph]
    exact ⟨h, rfl, rfl, by rw [hph]; rfl, rfl, by simp [recorded], rfl⟩
  case data =>
    rw [advance_data (s := sampleCyc s) hph]
    exact ⟨h, rfl, rfl, by rw [hph]; rfl, rfl, List.length_append, rfl⟩

theorem held_sampleCyc (s : State) (b : Option Busy) (rs : List Response) : Held s (recorded b rs (sampleCyc s)) :=
  ⟨rfl, rfl, rfl, rfl, rfl, Counter.count_le_tick _ _⟩

theorem pollDrivePost_pace (s : State) : Held s (pollDrivePost s) ∨ Transited s (pollDrivePost s) := by
  by_cases h : Claims.DwellElapsed s
  case neg =>
    rw [pollDrivePost_early h]
    exact .inl (held_sampleCyc s _ _)
  case pos =>
    right
    cases hf : (advance (sampleCyc s).cycNow true (sampleCyc s)).2
    case false =>
      rw [pollDrivePost_goes_on (dwellOk_eq_true h) hf]
      exact transited_advance h true _ _
    case true =>
      rw [pollDrivePost_returns (dwellOk_eq_true h) hf]
      exact transited_advance h true _ _

theorem execDriveMid_pace {s t : State} (h : exec .driveMid s = .next t) : Held s t ∨ Transited s t := by
  by_cases hd : Claims.DwellElapsed s
  · cases (exec_driveMid_advances hd).symm.trans h
    exact .inr (transited_advance hd false _ _)
  · cases (exec_driveMid_early hd).symm.trans h
    exact .inl (held_sampleCyc s _ _)

/-- A command that is no drive makes no transition (10_state.md R49). -/
theorem exec_held {i : Instr} (hi : ¬ Claims.IsDrive i) {s t : State} (h : exec i s = .next t) : Held s t := by
  obtain ⟨b, rs, u, w, rfl⟩ := exec_worked h
  have hcyc := w.countsLe.1
  cases w with
  | transition now e hdrive => exact absurd hdrive hi
  | nothing | pixel | flip | mask | twoSamples | sample => exact ⟨rfl, rfl, rfl, rfl, rfl, hcyc⟩

theorem Round.pace {s t : State} (w : Round s t) : Held s t ∨ Transited s t := by
  cases w with
  | drivePost h => exact h ▸ pollDrivePost_pace s
  | command i hi h =>
    by_cases hmid : i = .driveMid
    · subst hmid
      exact execDriveMid_pace h
    · exact .inl (exec_held (not_or_intro hmid hi) h)
  | delay n start h =>
    obtain ⟨b, rs, hrec⟩ := pollDelay_eq_recorded n start s
    exact .inl (h.trans hrec ▸ held_sampleCyc s b rs)
  | illegal h => exact .inl (h ▸ ⟨rfl, rfl, rfl, rfl, rfl, Nat.le_refl _⟩)
  | await h => exact .inl (h ▸ ⟨rfl, rfl, rfl, rfl, rfl, Nat.le_refl _⟩)

/-- At a sample that passes the gate the true cycles of the dwell are over (R201). -/
theorem StampedAt.dwell_le {s : State} {T : Nat} (hT : StampedAt s T) (h : Claims.DwellElapsed s) :
    T + dwell s.cfg s.phase ≤ (Claims.cycAfter s).count := by
  obtain ⟨hle, hstamp⟩ := hT
  have hafter : T ≤ (Claims.cycAfter s).count := hle.trans (Counter.count_le_tick _ _)
  exact (Nat.le_sub_iff_add_le' hafter).mp (dwell_le_of_dwellOk hafter hstamp (dwellOk_eq_true h))

/-! ### The dwells of a run (R217) -/

/-- The dwells of n transitions, the first of them from the phase `ph`. -/
def dwells (p : Params) (ph : Phase) (n : Nat) : Nat := ∑ i ∈ Finset.range n, dwell p (Phase.other^[i] ph)

theorem dwells_one (p : Params) (ph : Phase) : dwells p ph 1 = dwell p ph := Finset.sum_range_one _

theorem Phase.other_involutive : Function.Involutive Phase.other := by
  intro ph
  cases ph <;> rfl

/-- Whole protocol cycles, from either phase on. -/
theorem dwells_even (p : Params) (ph : Phase) (m : Nat) : dwells p ph (2 * m) = m * (p.dwellClock + p.dwellData) := by
  have hcycle : dwell p ph + dwell p ph.other = p.dwellClock + p.dwellData := by
    cases ph
    · rfl
    · exact Nat.add_comm _ _
  induction m with
  | zero => simp [dwells]
  | succ m ih =>
    have heven : Phase.other^[2 * m] = id := Phase.other_involutive.iterate_two_mul m
    rw [dwells] at ih ⊢
    rw [Nat.mul_succ, Finset.sum_range_succ, Finset.sum_range_succ, ih, Function.iterate_succ_apply', heven, id,
      Nat.add_assoc, hcycle, Nat.succ_mul]

/-- From `s` to `t` there were n transitions, the latest at the true count `T`, none before its dwell. -/
structure Paced (s : State) (n T : Nat) (t : State) : Prop where
  cfg : t.cfg = s.cfg
  resetIn : t.resetIn = false
  phase : t.phase = Phase.other^[n] s.phase
  pins : t.pins.length = s.pins.length + n
  stamp : StampedAt t T
  lasts : s.cyc.count + dwells s.cfg s.phase n ≤ T

section
variable {s t u : State} {n T : Nat}

theorem Paced.held (hp : Paced s n T t) (h : Held t u) : Paced s n T u where
  cfg := h.cfg.trans hp.cfg
  resetIn := h.resetIn.trans hp.resetIn
  phase := h.phase.trans hp.phase
  pins := by rw [h.pins, hp.pins]
  stamp := ⟨hp.stamp.1.trans h.cyc, hp.stamp.2.trans h.phaseStart.symm⟩
  lasts := hp.lasts

theorem Paced.transited (hp : Paced s n T t) (h : Transited t u) : Paced s (n + 1) u.cyc.count u where
  cfg := h.cfg.trans hp.cfg
  resetIn := h.resetIn.trans hp.resetIn
  phase := by rw [h.phase, hp.phase, Function.iterate_succ_apply']
  pins := by rw [h.pins, hp.pins, Nat.add_assoc]
  stamp := ⟨Nat.le_refl _, by rw [h.phaseStart, h.cyc]; rfl⟩
  lasts := by
    have hdwell := hp.stamp.dwell_le h.gate
    rw [hp.cfg, hp.phase, ← h.cyc] at hdwell
    rw [dwells, Finset.sum_range_succ, ← Nat.add_assoc]
    exact (Nat.add_le_add_right hp.lasts _).trans hdwell

/-- Every step keeps the pace. -/
theorem paced_step (t u : State) (hp : ∃ n T, Paced s n T t) (h : step t = .next u) : ∃ n T, Paced s n T u := by
  obtain ⟨n, T, hp⟩ := hp
  obtain ⟨k, w⟩ := step_round hp.resetIn h
  have hk : Paced s n T (consume k t) := { hp with }
  obtain hheld | htransited := w.pace
  · exact ⟨n, T, hk.held hheld⟩
  · exact ⟨n + 1, _, hk.transited htransited⟩

theorem Paced.lasts_of_pins (hp : Paced s n T t) {m : Nat} (h : t.pins.length = s.pins.length + m) :
    s.cyc.count + dwells s.cfg s.phase m ≤ t.cyc.count := by
  obtain rfl : n = m := Nat.add_left_cancel (hp.pins.symm.trans h)
  exact hp.lasts.trans hp.stamp.1

end

/-- Settles O48: a run keeps the pace, so each clause is the dwells of its number of transitions. -/
theorem pulseWidthsAreNeverShort : Obligations.PulseWidthsAreNeverShort := by
  intro k s t hinv hr hstamp hrun
  have hstart : Paced s 0 s.cyc.count s := ⟨rfl, hr, rfl, rfl, ⟨Nat.le_refl _, hstamp⟩, Nat.le_refl _⟩
  obtain ⟨n, T, hp⟩ := run_keeps paced_step ⟨0, _, hstart⟩ hrun
  have hcycles (m : Nat) (hm : t.pins.length = s.pins.length + 2 * m) :
      s.cyc.count + m * (s.cfg.dwellClock + s.cfg.dwellData) ≤ t.cyc.count := by
    rw [← dwells_even s.cfg s.phase m]
    exact hp.lasts_of_pins hm
  have hone (hm : t.pins.length = s.pins.length + 1) : s.cyc.count + dwell s.cfg s.phase ≤ t.cyc.count := by
    rw [← dwells_one]
    exact hp.lasts_of_pins hm
  refine ⟨fun hclk => ?_, fun hclk => ?_, hcycles, hcycles _⟩
  · rwa [hinv.clk_phase.mp hclk] at hone
  · have hph : s.phase = .clock := by
      cases h : s.phase
      case clock => rfl
      case data => exact absurd (hinv.clk_phase.mpr h) (by simp [hclk])
    rwa [hph] at hone

end Sys2Proof.Machine
end

section
/-! Where a step is refused (60_exceptions.md R250, R268). `exec` refuses a SET or SET_ADJ off the panel and nothing else
(`exec_refused_iff`), the port refuses a list cut short (`step_incomplete`), and the host's duty is that the port shows
neither. -/

namespace Sys2Proof.Machine

/-! ### The command that has no meaning (43_framebuffer.md R185) -/

/-- A SET or SET_ADJ with a coordinate off the panel. -/
def UncheckedOffPanel (p : Params) : Instr → Prop
  | .set x y _ | .setAdj x y _ => inRange p x y = false
  | _ => False

theorem setUnchecked_refused_iff (x y : Coord) (c : Color) (s : State) :
    (∃ r, setUnchecked x y c s = .refused r) ↔ inRange s.cfg x y = false := by
  cases h : inRange s.cfg x y
  case false => exact iff_of_true ⟨_, setUnchecked_offPanel h c⟩ rfl
  case true =>
    rw [setUnchecked_onPanel h]
    simp

/-- Of all commands only an unchecked setter can be refused, and it is exactly off the panel. -/
theorem exec_refused_iff (i : Instr) (s : State) : (∃ r, exec i s = .refused r) ↔ UncheckedOffPanel s.cfg i := by
  cases i with
  | set x y c | setAdj x y c => exact setUnchecked_refused_iff x y _ s
  | driveMid | drivePost | flip | trySet | trySetAdj | pulse | pulse4 | setMask | delay | peek | adjust =>
    exact iff_of_false (fun ⟨_, h⟩ => by cases h) id

/-! ### The step and the host's duty, by what the port decodes to -/

section
variable {s : State}

theorem step_incomplete (hr : s.resetIn = false) (hb : s.busy = none) (hd : decode s.port = .incomplete) :
    step s = .refused .incompleteCommand := by
  rw [step_idle hr hb]
  simp only [nextCommand, hd]

theorem step_empty (hr : s.resetIn = false) (hb : s.busy = none) (hd : decode s.port = .empty) :
    step s = .next (awaitCommand s) := by
  rw [step_idle hr hb]
  simp only [nextCommand, hd]

theorem hostDuty_of_command {i : Instr} {n : Nat} (hd : decode s.port = .command i n) :
    HostDuty s ↔ ¬ UncheckedOffPanel s.cfg i := by
  cases i <;> simp [HostDuty, hd, UncheckedOffPanel]

theorem hostDuty_of_no_command (hi : decode s.port ≠ .incomplete) (hc : ∀ i n, decode s.port ≠ .command i n) :
    HostDuty s := ⟨hi, fun _ _ _ _ h => (h.elim (hc _ _) (hc _ _)).elim⟩

/-- An idle step is refused exactly where the host breaks its duty, one case for each answer of the decoder. -/
theorem step_refused_iff (hr : s.resetIn = false) (hb : s.busy = none) :
    (∃ r, step s = .refused r) ↔ ¬ HostDuty s := by
  cases hd : decode s.port with
  | command i n =>
    rw [step_command hr hb hd, hostDuty_of_command hd, not_not]
    exact exec_refused_iff i (consume n s)
  | illegal why n =>
    rw [step_illegal hr hb hd]
    exact iff_of_false (by simp) (not_not.mpr (hostDuty_of_no_command (by simp [hd]) (by simp [hd])))
  | incomplete => exact iff_of_true ⟨_, step_incomplete hr hb hd⟩ fun h => h.1 hd
  | empty =>
    rw [step_empty hr hb hd]
    exact iff_of_false (by simp) (not_not.mpr (hostDuty_of_no_command (by simp [hd]) (by simp [hd])))

end

/-- RESET and the round of a command in progress always have a next state: neither reads the port. -/
theorem step_next_of_reset_or_busy {s : State} (h : s.resetIn = true ∨ s.busy ≠ none) : ∃ t, step s = .next t := by
  cases hr : s.resetIn
  case true => exact ⟨_, step_reset hr⟩
  case false =>
    obtain ⟨b, hb⟩ := Option.ne_none_iff_exists'.mp (h.resolve_left (by simp [hr]))
    exact ⟨_, step_busy hr hb⟩

/-- Settles O12: `step_refused_iff` for an idle block, a next state otherwise; and `Fault` has no constructor (R250). -/
theorem stepIsRefusedExactlyWithoutHostDuty : Obligations.StepIsRefusedExactlyWithoutHostDuty :=
  ⟨fun _ => step_refused_iff, fun _ => step_next_of_reset_or_busy, fun _ r => nomatch r⟩

end Sys2Proof.Machine
end

section
/-! The step without a command to read (30_encoding.md R117, 70_reset_and_hazards.md R281) and the first scan after reset
(70_reset_and_hazards.md R282). `driveMidPerformsTheClockAction` says what the first transition makes of the reset state,
and the scan of zero arrays rests on a column of zeros being a fixed point of the line step (`pdmColumn_zeros`). -/

namespace Sys2Proof.Machine

/-- Settles O11: what the port decodes to, or the round of the command in progress. -/
theorem stepWithoutACommandWaitsOrGoesOn : Obligations.StepWithoutACommandWaitsOrGoesOn := by
  refine ⟨fun s hr hb hport => ?_, fun s h t o hr hb hport ho hl => ?_, fun s hr hb => ?_⟩
  · have hempty : decode s.port = .empty := by rw [hport, decode]
    exact step_empty hr hb hempty
  · have hcut : decode s.port = .incomplete := by rw [hport, decode_incomplete ho hl]
    exact step_incomplete hr hb hcut
  · exact step_busy hr hb

/-- A target of 0 leaves an accumulator of 0 and does not carry (42_pdm.md R150). -/
theorem pulse_zeros : pulseAcc 0 0 = 0 ∧ pulseBit 0 0 = false := carryFormAndComparisonFormAgree.2 0

theorem bitAt_false (o : Offset) : bitAt false o = 0#32 := BitVec.zero_shiftLeft o.toNat

/-- Stepping a column of arrays that are all zero puts no bit in the mask and no cell in CUR (42_pdm.md R155). -/
theorem pdmColumn_zeros (p : Params) (l x : Nat) : pdmColumn p l [] ([], 0) x = ([], 0) := by
  obtain ⟨hacc, hbit⟩ := pulse_zeros
  have hread : Memory.readByte [] (cellAddr p l x) = 0 := rfl
  have hwrite : Memory.writeByte [] (cellAddr p l x) 0 = [] := rfl
  simp only [pdmColumn, hread, hacc, hbit, hwrite, bitAt_false, BitVec.or_zero]

theorem pdmLine_zeros (p : Params) (l : Nat) : pdmLine p l [] [] = ([], 0) :=
  List.foldl_fixed' (pdmColumn_zeros p l) (List.range p.width)

/-- Settles O56: the first transition is the clock action of line 0, and zero arrays stay zero. -/
theorem firstClockAfterResetPresentsZeros : Obligations.FirstClockAfterResetPresentsZeros := by
  refine ⟨fun p c r h => ?_, pdmLine_zeros⟩
  exact ⟨_, driveMidPerformsTheClockAction (State.resetAt p c r) rfl h, rfl, rfl⟩

end Sys2Proof.Machine
end
